-- ==== Sys2Proof/Word.lean ====
section
/-! DEFINITION. The word types of the DCC packet encoder (00_scope.md R6): a data byte is 8 bits, a
command word 32 bits. -/

namespace Sys2Proof

/-- A data byte of a packet (00_scope.md R6). -/
abbrev Byte := BitVec 8

/-- A command word on `cmd[31:0]` (30_encoding.md R40). -/
abbrev CommandWord := BitVec 32

end Sys2Proof
end

