-- ==== Sys2Proof/Syntax.lean ====
section
/-! DEFINITION. The rows of spec/opcode_table.json, one constructor each: the seven commands a host gives
the block, then the packet bytes and literal packets the block sends. -/

namespace Sys2Proof

/-- The opcode table. Commands carry the raw fields of their word (30_encoding.md R41 to R45): operands
that a command refuses can be written down. One-bit fields are `Bool` (`true` is 1). Packet bytes carry
the fields of their pattern (30_encoding.md R50). -/
inductive Instr where
  /-- `LINIT addr, mode` (R63): `MODE` 25:24, `ADDR` 15:0. -/
  | linit (mode : BitVec 2) (addr : BitVec 16)
  /-- `SPD speed, dir` (R70): `DIR` 24, `SPEED` 23:16 (two's complement). -/
  | spd (dir : Bool) (speed : BitVec 8)
  /-- `FN idx, on` (R83): `IDX` 27:24, `ON` 16. -/
  | fn (idx : BitVec 4) (on : Bool)
  /-- `ACC addr, active, sub` (R90): `SUB` 27:24, `ACTIVE` 16, `ADDR` 15:0. -/
  | acc (sub : BitVec 4) (active : Bool) (addr : BitVec 16)
  /-- `RST` (R115). -/
  | rst
  /-- `IDLE` (R116). -/
  | idle
  /-- `ESTOP` (R117). -/
  | estop
  /-- `0aaaaaaa`, the locomotive address byte (R60). -/
  | dccLocoaddr (a : BitVec 7)
  /-- `10aaaaaa`, accessory byte 1 (R61). -/
  | dccAccB1 (a : BitVec 6)
  /-- `1hhhcsss`, accessory byte 2 (R62): complemented high address bits, active flag, sub-state. -/
  | dccAccB2 (h : BitVec 3) (c : Bool) (s : BitVec 3)
  /-- `00111111`, 128-step instruction byte 1 (R71). -/
  | dccSpeed128B1
  /-- `dfffffff`, 128-step instruction byte 2 (R71): direction, `speed + 1`. -/
  | dccSpeed128B2 (d : Bool) (f : BitVec 7)
  /-- `01dcrrrr`, 14/28-step instruction byte (R72): direction, bit 0 and bits 4:1 of `speed + 3`. -/
  | dccSpeed28 (d : Bool) (c : Bool) (r : BitVec 4)
  /-- `100fffff`, function group 1 (R82). -/
  | dccFnG1 (f : BitVec 5)
  /-- `1011ffff`, function group 2 upper (R82). -/
  | dccFnG2u (f : BitVec 4)
  /-- `1010ffff`, function group 2 lower (R82). -/
  | dccFnG2l (f : BitVec 4)
  /-- The last byte of a packet (R95). -/
  | dccChecksum (x : Byte)
  /-- The literal packet `00 00 00` (R115). -/
  | dccPktReset
  /-- The literal packet `FF 00 FF` (R116). -/
  | dccPktIdle
  /-- The literal packet `00 70 70` (R117). -/
  | dccPktStopall
  deriving DecidableEq, Repr

end Sys2Proof
end

