-- ==== Sys2Proof/WellFormed.lean ====
section
/-! DEFINITION. Which terms of `Instr` stand for a word, byte or packet of the spec. A command operand that
is refused at run time (address 0, speed 127, function 13, sub-state 9) is well formed: its word is legal
(30_encoding.md R48, R55). -/

namespace Sys2Proof

/-- Well-formedness: `LINIT` has no `MODE = 3` (30_encoding.md R48 (c)); a locomotive address byte is never
`0x00`, the broadcast address (40_address.md R60, 30_encoding.md R52 (a)). Every other field value is in
its row's pattern. -/
def Instr.wellFormed : Instr → Bool
  | .linit mode _ => mode != 3#2
  | .spd _ _ => true
  | .fn _ _ => true
  | .acc _ _ _ => true
  | .rst => true
  | .idle => true
  | .estop => true
  | .dccLocoaddr a => a != 0#7
  | .dccAccB1 _ => true
  | .dccAccB2 _ _ _ => true
  | .dccSpeed128B1 => true
  | .dccSpeed128B2 _ _ => true
  | .dccSpeed28 _ _ _ => true
  | .dccFnG1 _ => true
  | .dccFnG2u _ => true
  | .dccFnG2l _ => true
  | .dccChecksum _ => true
  | .dccPktReset => true
  | .dccPktIdle => true
  | .dccPktStopall => true

/-- The seven commands of the block, as against the rows of its output language (00_scope.md R2). -/
def Instr.isCommand : Instr → Bool
  | .linit _ _ | .spd _ _ | .fn _ _ | .acc _ _ _ | .rst | .idle | .estop => true
  | .dccLocoaddr _ | .dccAccB1 _ | .dccAccB2 _ _ _ | .dccSpeed128B1 | .dccSpeed128B2 _ _
  | .dccSpeed28 _ _ _ | .dccFnG1 _ | .dccFnG2u _ | .dccFnG2l _ | .dccChecksum _
  | .dccPktReset | .dccPktIdle | .dccPktStopall => false

end Sys2Proof
end

