-- ==== Sys2Proof/Decode.lean ====
section
/-! DEFINITION. Decoding of command words (30_encoding.md R40 to R48), the reading of packet bytes by their
place in a packet (R49 to R51), and the encoder. -/

namespace Sys2Proof

/-! ## Decoding -/

/-- Why a word is no instruction. The first three make a command word illegal (30_encoding.md R48). -/
inductive DecodeError where
  /-- R48 (a): `OP` is 0 or 8 to 15. -/
  | reservedOpcode
  /-- R48 (b): a bit that the format marks "must be zero" is 1. -/
  | mustBeZero
  /-- R48 (c): `LINIT` with `MODE = 3`. -/
  | illegalMode
  /-- Not a command: bits that no row of the output language has in that place (R49, R50). -/
  | noSuchRow
  deriving DecidableEq, Repr

/-- Format L (30_encoding.md R41). -/
def decodeLinit (w : CommandWord) : Except DecodeError Instr :=
  if w.extractLsb' 26 2 = 0#2 ∧ w.extractLsb' 16 8 = 0#8 then
    if w.extractLsb' 24 2 = 3#2 then .error .illegalMode
    else .ok (.linit (w.extractLsb' 24 2) (w.extractLsb' 0 16))
  else .error .mustBeZero

/-- Format S (30_encoding.md R42). -/
def decodeSpd (w : CommandWord) : Except DecodeError Instr :=
  if w.extractLsb' 25 3 = 0#3 ∧ w.extractLsb' 0 16 = 0#16 then
    .ok (.spd (w.getLsbD 24) (w.extractLsb' 16 8))
  else .error .mustBeZero

/-- Format F (30_encoding.md R43). -/
def decodeFn (w : CommandWord) : Except DecodeError Instr :=
  if w.extractLsb' 17 7 = 0#7 ∧ w.extractLsb' 0 16 = 0#16 then
    .ok (.fn (w.extractLsb' 24 4) (w.getLsbD 16))
  else .error .mustBeZero

/-- Format A (30_encoding.md R44). -/
def decodeAcc (w : CommandWord) : Except DecodeError Instr :=
  if w.extractLsb' 17 7 = 0#7 then
    .ok (.acc (w.extractLsb' 24 4) (w.getLsbD 16) (w.extractLsb' 0 16))
  else .error .mustBeZero

/-- Format B (30_encoding.md R45): no operand, bits 27:0 zero. -/
def decodeBroadcast (i : Instr) (w : CommandWord) : Except DecodeError Instr :=
  if w.extractLsb' 0 28 = 0#28 then .ok i else .error .mustBeZero

/-- The opcode map (30_encoding.md R46). Total: a word is one of the seven commands or illegal (R48). -/
def decodeCommand (w : CommandWord) : Except DecodeError Instr :=
  match (w.extractLsb' 28 4).toNat with
  | 1 => decodeLinit w
  | 2 => decodeSpd w
  | 3 => decodeFn w
  | 4 => decodeAcc w
  | 5 => decodeBroadcast .rst w
  | 6 => decodeBroadcast .idle w
  | 7 => decodeBroadcast .estop w
  | _ => .error .reservedOpcode

/-- The packet shapes that carry fields (30_encoding.md R49); the three literal packets are `broadcast`. -/
inductive PacketShape where
  | speed128
  | speed28
  | functionGroup
  | accessory
  | broadcast
  deriving DecidableEq, Repr

/-- Where bits of the table stand: on the command port, in place `k` of a packet of some shape, or as a
whole literal packet. -/
inductive Place where
  | command
  | packetByte (shape : PacketShape) (k : Nat)
  | packet
  deriving DecidableEq, Repr

/-- Bits of the table's three widths: a command word, a packet byte, a literal packet (first byte sent in
bits 23:16). -/
inductive Encoded where
  | command (w : CommandWord)
  | packetByte (b : Byte)
  | packet (p : BitVec 24)
  deriving DecidableEq, Repr

/-- The locomotive address byte (40_address.md R60): bit 7 clear, address 1 to 127. -/
def decodeLocoaddr (b : Byte) : Except DecodeError Instr :=
  if b.getLsbD 7 = false ∧ b.extractLsb' 0 7 ≠ 0#7 then .ok (.dccLocoaddr (b.extractLsb' 0 7))
  else .error .noSuchRow

/-- Accessory byte 1 (40_address.md R61). -/
def decodeAccB1 (b : Byte) : Except DecodeError Instr :=
  if b.extractLsb' 6 2 = 0b10#2 then .ok (.dccAccB1 (b.extractLsb' 0 6)) else .error .noSuchRow

/-- Accessory byte 2 (40_address.md R62). -/
def decodeAccB2 (b : Byte) : Except DecodeError Instr :=
  if b.getLsbD 7 = true then
    .ok (.dccAccB2 (b.extractLsb' 4 3) (b.getLsbD 3) (b.extractLsb' 0 3))
  else .error .noSuchRow

/-- 128-step instruction byte 1, the constant `0x3F` (41_speed.md R71). -/
def decodeSpeed128B1 (b : Byte) : Except DecodeError Instr :=
  if b = 0x3F#8 then .ok .dccSpeed128B1 else .error .noSuchRow

/-- 128-step instruction byte 2 (41_speed.md R71). -/
def decodeSpeed128B2 (b : Byte) : Except DecodeError Instr :=
  .ok (.dccSpeed128B2 (b.getLsbD 7) (b.extractLsb' 0 7))

/-- The 14/28-step instruction byte (41_speed.md R72). -/
def decodeSpeed28 (b : Byte) : Except DecodeError Instr :=
  if b.extractLsb' 6 2 = 0b01#2 then
    .ok (.dccSpeed28 (b.getLsbD 5) (b.getLsbD 4) (b.extractLsb' 0 4))
  else .error .noSuchRow

/-- A function-group byte (42_function.md R80, R82): the leading bits tell the group. -/
def decodeFunctionGroup (b : Byte) : Except DecodeError Instr :=
  if b.extractLsb' 5 3 = 0b100#3 then .ok (.dccFnG1 (b.extractLsb' 0 5))
  else if b.extractLsb' 4 4 = 0b1011#4 then .ok (.dccFnG2u (b.extractLsb' 0 4))
  else if b.extractLsb' 4 4 = 0b1010#4 then .ok (.dccFnG2l (b.extractLsb' 0 4))
  else .error .noSuchRow

/-- A packet byte in place `k` of a packet of the given shape (30_encoding.md R49, R50). -/
def decodePacketByte (shape : PacketShape) (k : Nat) (b : Byte) : Except DecodeError Instr :=
  match shape, k with
  | .speed128, 0 => decodeLocoaddr b
  | .speed128, 1 => decodeSpeed128B1 b
  | .speed128, 2 => decodeSpeed128B2 b
  | .speed128, 3 => .ok (.dccChecksum b)
  | .speed28, 0 => decodeLocoaddr b
  | .speed28, 1 => decodeSpeed28 b
  | .speed28, 2 => .ok (.dccChecksum b)
  | .functionGroup, 0 => decodeLocoaddr b
  | .functionGroup, 1 => decodeFunctionGroup b
  | .functionGroup, 2 => .ok (.dccChecksum b)
  | .accessory, 0 => decodeAccB1 b
  | .accessory, 1 => decodeAccB2 b
  | .accessory, 2 => .ok (.dccChecksum b)
  | .broadcast, 2 => .ok (.dccChecksum b)
  | _, _ => .error .noSuchRow

/-- The three literal packets (46_broadcast.md R115 to R117), first byte sent in bits 23:16. -/
def decodePacket (p : BitVec 24) : Except DecodeError Instr :=
  if p = 0x000000#24 then .ok .dccPktReset
  else if p = 0xFF00FF#24 then .ok .dccPktIdle
  else if p = 0x007070#24 then .ok .dccPktStopall
  else .error .noSuchRow

/-- The reading of bits of the table in their place. -/
def decodeAt (place : Place) (e : Encoded) : Except DecodeError Instr :=
  match place, e with
  | .command, .command w => decodeCommand w
  | .packetByte shape k, .packetByte b => decodePacketByte shape k b
  | .packet, .packet p => decodePacket p
  | _, _ => .error .noSuchRow

/-- DESIGN CHOICE (log 10). A packet byte seen without its packet: the spec tells the byte rows apart by
position only, so bits alone do not settle the row. The reading is the row with the most fixed bits among
those whose rule can produce the byte. What the sequencer does with a byte is the same for every row
(Machine/Wire.lean), so no step depends on this choice. -/
def decodeLoneByte (b : Byte) : Except DecodeError Instr :=
  if b = 0x3F#8 then .ok .dccSpeed128B1
  else if b = 0x00#8 then decodeSpeed128B2 b
  else if b.getLsbD 7 = false then
    if b.getLsbD 6 = true then decodeSpeed28 b else decodeLocoaddr b
  else if b.getLsbD 6 = true then decodeAccB2 b
  else decodeFunctionGroup b

/-- The host's question about a table row: what the decoder reads from `nbits` bits `w`. -/
def decodeTableWord (nbits w : Nat) : Option Instr :=
  match nbits with
  | 32 => (decodeCommand (BitVec.ofNat 32 w)).toOption
  | 24 => (decodePacket (BitVec.ofNat 24 w)).toOption
  | 8 => (decodeLoneByte (BitVec.ofNat 8 w)).toOption
  | _ => none

/-! ## Encoding -/

/-- The bits of an instruction, from the formats R41 to R45 and the patterns R50. -/
def encode : Instr → Encoded
  | .linit mode addr => .command (1#4 ++ 0#2 ++ mode ++ 0#8 ++ addr)
  | .spd dir speed => .command (2#4 ++ 0#3 ++ BitVec.ofBool dir ++ speed ++ 0#16)
  | .fn idx on => .command (3#4 ++ idx ++ 0#7 ++ BitVec.ofBool on ++ 0#16)
  | .acc sub active addr => .command (4#4 ++ sub ++ 0#7 ++ BitVec.ofBool active ++ addr)
  | .rst => .command (5#4 ++ 0#28)
  | .idle => .command (6#4 ++ 0#28)
  | .estop => .command (7#4 ++ 0#28)
  | .dccLocoaddr a => .packetByte (0#1 ++ a)
  | .dccAccB1 a => .packetByte (0b10#2 ++ a)
  | .dccAccB2 h c s => .packetByte (1#1 ++ h ++ BitVec.ofBool c ++ s)
  | .dccSpeed128B1 => .packetByte 0b00111111#8
  | .dccSpeed128B2 d f => .packetByte (BitVec.ofBool d ++ f)
  | .dccSpeed28 d c r => .packetByte (0b01#2 ++ BitVec.ofBool d ++ BitVec.ofBool c ++ r)
  | .dccFnG1 f => .packetByte (0b100#3 ++ f)
  | .dccFnG2u f => .packetByte (0b1011#4 ++ f)
  | .dccFnG2l f => .packetByte (0b1010#4 ++ f)
  | .dccChecksum x => .packetByte x
  | .dccPktReset => .packet (0x00#8 ++ 0x00#8 ++ 0x00#8)
  | .dccPktIdle => .packet (0xFF#8 ++ 0x00#8 ++ 0xFF#8)
  | .dccPktStopall => .packet (0x00#8 ++ 0x70#8 ++ 0x70#8)

/-- A place where the row stands (30_encoding.md R49): the command port for a command, else one of the
packets that carry the byte. -/
def Instr.place : Instr → Place
  | .linit _ _ => .command
  | .spd _ _ => .command
  | .fn _ _ => .command
  | .acc _ _ _ => .command
  | .rst => .command
  | .idle => .command
  | .estop => .command
  | .dccLocoaddr _ => .packetByte .speed28 0
  | .dccAccB1 _ => .packetByte .accessory 0
  | .dccAccB2 _ _ _ => .packetByte .accessory 1
  | .dccSpeed128B1 => .packetByte .speed128 1
  | .dccSpeed128B2 _ _ => .packetByte .speed128 2
  | .dccSpeed28 _ _ _ => .packetByte .speed28 1
  | .dccFnG1 _ => .packetByte .functionGroup 1
  | .dccFnG2u _ => .packetByte .functionGroup 1
  | .dccFnG2l _ => .packetByte .functionGroup 1
  | .dccChecksum _ => .packetByte .speed28 2
  | .dccPktReset => .packet
  | .dccPktIdle => .packet
  | .dccPktStopall => .packet

end Sys2Proof
end

