-- ==== Sys2Proof/Config.lean ====
section
/-! DEFINITION. What is fixed for a machine (its static parameters), the input ports it samples, and the
free values: what the spec leaves open, as opaque constants without a body, so that nothing can be proved
about them. -/

namespace Sys2Proof

/-- The parameter `FN_LAYOUT` (00_scope.md R5): which bit of a function-group byte carries which
function (42_function.md R82). -/
inductive FnLayout where
  | nmra
  | concat
  deriving DecidableEq, Repr

/-- The switch that 93_implementation_defined.md U7 asks for: `LINIT` with `MODE = 0` is accepted and
14-step mode behaves as 28-step mode (the default, decision D14), or it is refused. -/
inductive Mode14Policy where
  | likeMode28
  | refused
  deriving DecidableEq, Repr

/-- The static parameters (00_scope.md R5, 93_implementation_defined.md U7). No command changes them and
they are no registers. The constraint `preambleLen >= 14` is part of the invariant (Safety.lean). -/
structure Params where
  /-- `PREAMBLE_LEN`, written `P` in the rules: how many one-bits open a frame. -/
  preambleLen : Nat
  fnLayout : FnLayout
  mode14 : Mode14Policy
  deriving DecidableEq, Repr

/-- The defaults of 00_scope.md R5 and of U7. -/
def Params.default : Params :=
  { preambleLen := 14, fnLayout := .nmra, mode14 := .likeMode28 }

/-- The levels of the input ports in one step (20_memory.md R31). -/
structure Ports where
  rst : Bool
  cmdValid : Bool
  cmd : CommandWord
  txReady : Bool
  txFault : Bool
  deriving DecidableEq, Repr, Inhabited

/-- Free value: what the host and the transport drive in step `n` when nothing is scripted. The host may
present anything and the transport may accept, stall or fault at every step (10_state.md R24,
45_framer.md R104, U15; log 1). -/
opaque Config.environment : Nat → Ports

/-- Free value: the contents of `BUF[k]` after an `rst` step (70_reset_and_hazards.md R140, U6; log 4). -/
opaque Config.unspecifiedBuf : Nat → Nat → Byte

/-- Free value: the contents of `NB` after an `rst` step (R140, U6; log 4). -/
opaque Config.unspecifiedNb : Nat → BitVec 3

/-- Free value: the contents of `POS` after an `rst` step, before it is cut to the register's width
(R140, U6; log 4). -/
opaque Config.unspecifiedPos : Nat → Nat

/-- Free value: `tx_bit` while `tx_valid = 0` (45_framer.md R104, U8; log 6). -/
opaque Config.idleTxBit : Nat → Bool

/-- Free value: `rsp_code` while `rsp_valid = 0` (U8; log 6). -/
opaque Config.idleRspCode : Nat → BitVec 3

end Sys2Proof
end

