-- ==== Sys2Proof/Machine/State.lean ====
section
/-! DEFINITION. The state of the block (10_state.md), the response codes (60_exceptions.md R120), why a step
can stop, and reset. -/

namespace Sys2Proof.Machine

/-- The response codes by name (60_exceptions.md R120). `stateNotAvailable` belongs to the host layer; the
block never drives it (R129). -/
inductive Response where
  | ok
  | invalidAddress
  | invalidSpeed
  | functionNotAvailable
  | stateNotAvailable
  | transportError
  | invalidSubState
  | illegalCommand
  deriving DecidableEq, Repr

/-- The four data-byte registers `BUF[0..3]` (10_state.md R14). -/
structure PacketBuffer where
  b0 : Byte
  b1 : Byte
  b2 : Byte
  b3 : Byte
  deriving DecidableEq, Repr

/-- The state: the registers of 10_state.md R20, then the output ports' record, then the model's own
fields (INVENTORY.md, State). -/
structure State where
  /-- `FN[0..12]`, bit `i` is `FN[i]` (R10). -/
  fn : BitVec 13
  /-- `LADDR`; 0 is "no loco constructed" (R11). -/
  laddr : BitVec 7
  /-- `MODE`: 0, 1, 2 are 14-, 28-, 128-step; 3 is never held (R12). -/
  mode : BitVec 2
  /-- `BUSY`: a frame is being emitted (R13). -/
  busy : Bool
  /-- `BUF[0..3]` (R14). -/
  buf : PacketBuffer
  /-- `NB`: how many of `BUF` are used (R14). -/
  nb : BitVec 3
  /-- `POS`: the index of the next frame bit, a natural number (R15; log 15). -/
  pos : Nat
  /-- The output stream `TX`, earliest bit first (00_scope.md R7; log 5). -/
  tx : List Bool
  /-- The response port in the step just taken (R18, 60_exceptions.md R121; log 5). -/
  rsp : Option Response
  /-- The static parameters; no step changes them (00_scope.md R5; log 2). -/
  params : Params
  /-- The input ports in the step under way (20_memory.md R31; log 1). -/
  ports : Ports
  /-- The scripted samples of the input ports still to come (log 1). -/
  inputs : List Ports
  /-- How many steps were taken: the index of the free values (log 4). -/
  tick : Nat
  deriving DecidableEq, Repr

/-- Why the machine stops with a fault. No state that a run reaches faults (Safety.lean). -/
inductive Fault where
  /-- Raised by `SPD` when `MODE` holds 3, which 10_state.md R12 says is never held and for which R70 has no
  case. Safe: the model stops where the spec says nothing (log 8). -/
  | modeNotHeld
  /-- Raised by the sequencer and the rows of the output language when the transport accepts a bit and `POS`
  is past the frame or points outside `BUF`, where `BitAt` is not defined (45_framer.md R103). Safe: the
  model stops where the spec says nothing (log 7). -/
  | noFrameBit
  deriving DecidableEq, Repr

/-- Why an instruction has no meaning. -/
inductive Refusal where
  /-- Raised by `exec` for an instruction that has no meaning yet; no arm does. Safe: nothing is claimed of
  it. -/
  | notModelled (mnemonic : String)
  /-- Raised by `LINIT` with `MODE = 0` when the switch of 93_implementation_defined.md U7 is set to refuse
  14-step mode; at the default it is never raised. Safe: the cautious side of U7 (log 14). -/
  | mode14Refused
  deriving DecidableEq, Repr

/-- The machine right after reset (10_state.md R22, 70_reset_and_hazards.md R142). `BUF`, `NB` and `POS` are
unspecified there: DESIGN CHOICE 0, unsafe (log 3). The parameters are at the spec's defaults; nothing is
scripted, so the free environment drives the input ports (log 1). -/
def State.reset : State :=
  { fn := 0#13
    laddr := 0#7
    mode := 0#2
    busy := false
    buf := { b0 := 0#8, b1 := 0#8, b2 := 0#8, b3 := 0#8 }
    nb := 0#3
    pos := 0
    tx := []
    rsp := none
    params := Params.default
    ports := { rst := false, cmdValid := false, cmd := 0#32, txReady := false, txFault := false }
    inputs := []
    tick := 0 }

end Sys2Proof.Machine
end

