-- ==== Sys2Proof/Machine/Operands.lean ====
section
/-! DEFINITION. The operand codecs: the pure functions of 00_scope.md R8, the validity predicates of
40_address.md R64 and the range checks of 41_speed.md R70. -/

namespace Sys2Proof.Machine

/-- The byte written `(b7,...,b0)` in the rules, most significant bit first (00_scope.md R7). -/
def byteOfBits (b7 b6 b5 b4 b3 b2 b1 b0 : Bool) : Byte :=
  BitVec.ofBool b7 ++ BitVec.ofBool b6 ++ BitVec.ofBool b5 ++ BitVec.ofBool b4 ++
    BitVec.ofBool b3 ++ BitVec.ofBool b2 ++ BitVec.ofBool b1 ++ BitVec.ofBool b0

/-! ## Address codec (40_address.md) -/

/-- `ValidLoco` (R64): unsigned, on the full 16-bit field. -/
def validLoco (a : BitVec 16) : Bool := 1 ≤ a.toNat && a.toNat ≤ 127

/-- `ValidAcc` (R64). -/
def validAcc (a : BitVec 16) : Bool := 1 ≤ a.toNat && a.toNat ≤ 511

/-- `ValidSub` (R64). -/
def validSub (s : BitVec 4) : Bool := s.toNat ≤ 7

/-- `LocoAddrByte(a)` (R60). -/
def locoAddrByte (a : BitVec 7) : Byte := a.setWidth 8

/-- `AccByte1(a)` (R61). -/
def accByte1 (a : BitVec 16) : Byte :=
  byteOfBits true false (a.getLsbD 5) (a.getLsbD 4) (a.getLsbD 3) (a.getLsbD 2) (a.getLsbD 1) (a.getLsbD 0)

/-- `AccByte2(a, c, s)` (R62): only the three high address bits are complemented. -/
def accByte2 (a : BitVec 16) (c : Bool) (s : BitVec 4) : Byte :=
  byteOfBits true (!a.getLsbD 8) (!a.getLsbD 7) (!a.getLsbD 6) c (s.getLsbD 2) (s.getLsbD 1) (s.getLsbD 0)

/-! ## Speed/direction bit-packer (41_speed.md) -/

/-- The step modes by name (10_state.md R12). -/
inductive StepMode where
  | mode14
  | mode28
  | mode128
  deriving DecidableEq, Repr

/-- The mode a value of `MODE` stands for (10_state.md R12). -/
def stepModeOf (m : BitVec 2) : Option StepMode :=
  if m = 0#2 then some .mode14
  else if m = 1#2 then some .mode28
  else if m = 2#2 then some .mode128
  else none

/-- The valid speeds of a mode (R70; `mode14` as `mode28`, R75). -/
def validSpeed (m : StepMode) (speed : Int) : Bool :=
  match m with
  | .mode128 => -1 ≤ speed && speed ≤ 126
  | .mode28 => -3 ≤ speed && speed ≤ 28
  | .mode14 => -3 ≤ speed && speed ≤ 28

/-- The second byte of `Speed128(speed, dir)` (R71): direction, then `f = speed + 1` in seven bits. -/
def speed128Byte2 (speed : Int) (dir : Bool) : Byte :=
  let f := BitVec.ofInt 7 (speed + 1)
  byteOfBits dir (f.getLsbD 6) (f.getLsbD 5) (f.getLsbD 4) (f.getLsbD 3) (f.getLsbD 2) (f.getLsbD 1) (f.getLsbD 0)

/-- `Speed128(speed, dir)` (R71). -/
def speed128 (speed : Int) (dir : Bool) : Byte × Byte := (0x3F#8, speed128Byte2 speed dir)

/-- `Speed28(speed, dir)` (R72): `r = speed + 3` rotated right by one place (90_conflicts.md C1). -/
def speed28 (speed : Int) (dir : Bool) : Byte :=
  let r := BitVec.ofInt 5 (speed + 3)
  byteOfBits false true dir (r.getLsbD 0) (r.getLsbD 4) (r.getLsbD 3) (r.getLsbD 2) (r.getLsbD 1)

/-- The instruction bytes of `SPD` in a mode (R70; R75 for 14-step mode, 90_conflicts.md C8). -/
def speedBytes (m : StepMode) (speed : Int) (dir : Bool) : List Byte :=
  match m with
  | .mode128 => [(speed128 speed dir).1, (speed128 speed dir).2]
  | .mode28 => [speed28 speed dir]
  | .mode14 => [speed28 speed dir]

/-! ## Function bit-splitter (42_function.md) -/

/-- The three function groups (R80). -/
inductive FnGroup where
  | group1
  | group2Upper
  | group2Lower
  deriving DecidableEq, Repr

/-- `Group(i)` for `i` in 0 to 12 (R81). -/
def fnGroup (i : Nat) : FnGroup :=
  if i ≤ 4 then .group1 else if i ≤ 8 then .group2Upper else .group2Lower

/-- `FnByte(g, FN)` in both layouts (R82; 90_conflicts.md C2, C3). -/
def fnByte (layout : FnLayout) (g : FnGroup) (fn : BitVec 13) : Byte :=
  let f := fn.getLsbD
  match layout, g with
  | .nmra, .group1 => byteOfBits true false false (f 0) (f 4) (f 3) (f 2) (f 1)
  | .nmra, .group2Upper => byteOfBits true false true true (f 8) (f 7) (f 6) (f 5)
  | .nmra, .group2Lower => byteOfBits true false true false (f 12) (f 11) (f 10) (f 9)
  | .concat, .group1 => byteOfBits true false false (f 0) (f 1) (f 2) (f 3) (f 4)
  | .concat, .group2Upper => byteOfBits true false true true (f 5) (f 6) (f 7) (f 8)
  | .concat, .group2Lower => byteOfBits true false true false (f 9) (f 10) (f 11) (f 12)

/-- `FN[i] <- on` (R83): an assignment, the other twelve bits kept. -/
def setFnBit (fn : BitVec 13) (i : Nat) (on : Bool) : BitVec 13 :=
  if on then fn ||| (1#13 <<< i) else fn &&& ~~~(1#13 <<< i)

/-! ## Checksum (44_checksum.md) -/

/-- `Xor(bytes)` (R95). -/
def xorBytes (bytes : List Byte) : Byte := bytes.foldl (· ^^^ ·) 0x00#8

/-! ## Frame (45_framer.md) -/

/-- The eight bits of a byte in sending order (20_memory.md R33). -/
def byteBits (b : Byte) : List Bool :=
  [b.getLsbD 7, b.getLsbD 6, b.getLsbD 5, b.getLsbD 4, b.getLsbD 3, b.getLsbD 2, b.getLsbD 1, b.getLsbD 0]

/-- `Frame(bytes, P)`, earliest bit first (R100): preamble, one `0` before every byte, stop bit. -/
def frame (bytes : List Byte) (P : Nat) : List Bool :=
  List.replicate P true ++ bytes.flatMap (fun b => false :: byteBits b) ++ [true]

/-- `BUF[k]`; there are four (10_state.md R14). -/
def PacketBuffer.get? (buf : PacketBuffer) (k : Nat) : Option Byte :=
  match k with
  | 0 => some buf.b0
  | 1 => some buf.b1
  | 2 => some buf.b2
  | 3 => some buf.b3
  | _ => none

/-- Bit `j` of the nine-bit group of a byte (R103): the separator, then bit 7 down to bit 0. -/
def groupBit (b : Byte) (j : Nat) : Bool := if j = 0 then false else b.getLsbD (8 - j)

/-- `BitAt(pos)` (R103); `none` where the rule defines no bit: past the stop bit, or a byte outside `BUF`. -/
def bitAt (P : Nat) (buf : PacketBuffer) (nb pos : Nat) : Option Bool :=
  if pos < P then some true
  else
    let q := pos - P
    if q = 9 * nb then some true
    else if 9 * nb < q then none
    else (buf.get? (q / 9)).map (fun b => groupBit b (q % 9))

/-- The bit at `pos` when the byte at that place of the frame is `b` (R103): outside the byte groups the
position alone decides. -/
def bitAtOfByte (P : Nat) (b : Byte) (nb pos : Nat) : Option Bool :=
  if pos < P then some true
  else
    let q := pos - P
    if q = 9 * nb then some true
    else if 9 * nb < q then none
    else some (groupBit b (q % 9))

end Sys2Proof.Machine
end

