-- ==== Sys2Proof/Machine/Ops.lean ====
section
/-! DEFINITION. The named operations on the state: responses and refusals (60_exceptions.md R121, R127),
`start_frame` (45_framer.md R102), the sequencer's steps (R104, R105, 60_exceptions.md R130), the reset
input (70_reset_and_hazards.md R140) and the sampling of the input ports. -/

namespace Sys2Proof.Machine

/-- What a step answers. -/
abbrev Result := Host.Outcome State Fault Refusal

/-! ## Responses -/

/-- `respond(code)` (60_exceptions.md R121). -/
def State.respond (s : State) (r : Response) : State := { s with rsp := some r }

/-- `raise E`: the one way a command is refused (60_exceptions.md R127). No register changes, no frame
starts, the response is `E`. There is no handler and nothing to return from (R131). -/
def raise (r : Response) (s : State) : Result := .next (s.respond r)

/-- A command is accepted only while `cmd_ready = 1`, that is `BUSY = 0`; else it has no effect
(20_memory.md R31, 70_reset_and_hazards.md R146). -/
def State.whenReady (s : State) (k : Result) : Result := if s.busy then .next s else k

/-! ## The loco context -/

/-- The state writes of a successful `LINIT` (40_address.md R63). -/
def State.construct (s : State) (mode : BitVec 2) (addr : BitVec 16) : State :=
  { s with laddr := addr.setWidth 7, mode := mode, fn := 0#13 }

/-- `FN[i] <- on` (42_function.md R83). -/
def State.writeFn (s : State) (i : Nat) (on : Bool) : State := { s with fn := setFnBit s.fn i on }

/-! ## Starting a frame -/

/-- `BUF[k] <- b`. -/
def PacketBuffer.set (buf : PacketBuffer) (k : Nat) (b : Byte) : PacketBuffer :=
  match k with
  | 0 => { buf with b0 := b }
  | 1 => { buf with b1 := b }
  | 2 => { buf with b2 := b }
  | 3 => { buf with b3 := b }
  | _ => buf

/-- The loop of `start_frame`: the bytes go to `BUF[k]`, `BUF[k+1]`, ...; the others keep their values. -/
def PacketBuffer.load (buf : PacketBuffer) (k : Nat) (bytes : List Byte) : PacketBuffer :=
  match bytes with
  | [] => buf
  | b :: bs => (buf.set k b).load (k + 1) bs

/-- `start_frame(bytes)` (45_framer.md R102). -/
def State.startFrame (s : State) (bytes : List Byte) : State :=
  { s with buf := s.buf.load 0 bytes, nb := BitVec.ofNat 3 bytes.length, pos := 0, busy := true }

/-- The end of every packet command that computes its checksum: `start_frame(data ++ [Xor(data)])`
(44_checksum.md R96). No response yet. -/
def sendPacket (data : List Byte) (s : State) : Result := .next (s.startFrame (data ++ [xorBytes data]))

/-! ## The sequencer -/

/-- The transport's answer to an offered bit (45_framer.md R104). -/
inductive TransportChoice where
  | accept
  | stall
  | fault
  deriving DecidableEq, Repr

/-- The transport's choice as its ports show it (45_framer.md R104): fault beats ready. -/
def transportChoice (p : Ports) : TransportChoice :=
  if p.txFault then .fault else if p.txReady then .accept else .stall

/-- `emit(b)`: append to `TX` (00_scope.md R7). -/
def State.emit (s : State) (b : Bool) : State := { s with tx := s.tx ++ [b] }

/-- `POS <- POS + 1` (45_framer.md R105). -/
def State.advance (s : State) : State := { s with pos := s.pos + 1 }

/-- After the stop bit: `BUSY <- 0`, `respond(OK)` (45_framer.md R105). -/
def State.finish (s : State) : State := { s with busy := false, rsp := some .ok }

/-- The `Abort` step (60_exceptions.md R130): the offered bit is not emitted, writes are kept. -/
def State.abort (s : State) : State := { s with busy := false, rsp := some .transportError }

/-- The `Emit` step (45_framer.md R105) of a frame of `n` bytes whose bit at `POS` is `b`. -/
def State.emitStep (s : State) (n : Nat) (b : Bool) : State :=
  if s.pos = s.params.preambleLen + 9 * n then (s.emit b).finish else (s.emit b).advance

/-- One step of the sequencer offering `bit` in a frame of `n` bytes (45_framer.md R104). Idle, it offers
nothing and ignores the transport. -/
def offerBit (n : Nat) (bit : Option Bool) (s : State) : Result :=
  if s.busy then
    match transportChoice s.ports with
    | .fault => .next s.abort
    | .stall => .next s
    | .accept =>
      match bit with
      | some b => .next (s.emitStep n b)
      | none => .fault .noFrameBit
  else .next s

/-- `BitAt(POS)` of the frame in flight (45_framer.md R103). -/
def State.offeredBit (s : State) : Option Bool :=
  bitAt s.params.preambleLen s.buf s.nb.toNat s.pos

/-- One step of the sequencer on the frame in flight (45_framer.md R104, R105; 60_exceptions.md R130). -/
def sequenceFrame (s : State) : Result := offerBit s.nb.toNat s.offeredBit s

/-- One step of the sequencer on a packet byte `b`: the byte of the current place of the frame in flight
is `b`. -/
def sendByte (b : Byte) (s : State) : Result :=
  offerBit s.nb.toNat (bitAtOfByte s.params.preambleLen b s.nb.toNat s.pos) s

/-- One step of the sequencer on a whole packet: the bit at `POS` of its frame (45_framer.md R100, R105). -/
def sendLiteral (bytes : List Byte) (s : State) : Result :=
  offerBit bytes.length ((frame bytes s.params.preambleLen)[s.pos]?) s

/-! ## Reset and sampling -/

/-- The number of bits of `P + 36`, the width of `POS` (10_state.md R15). -/
def posWidth (P : Nat) : Nat := Nat.log2 (P + 36) + 1

/-- A step with `rst = 1` (70_reset_and_hazards.md R140, R141): the context and `BUSY` to their reset
values, `BUF`, `NB`, `POS` free values (log 4); no bit, no response, no command. -/
def State.applyReset (s : State) : State :=
  { s with
    fn := 0#13
    laddr := 0#7
    mode := 0#2
    busy := false
    buf :=
      { b0 := Config.unspecifiedBuf s.tick 0
        b1 := Config.unspecifiedBuf s.tick 1
        b2 := Config.unspecifiedBuf s.tick 2
        b3 := Config.unspecifiedBuf s.tick 3 }
    nb := Config.unspecifiedNb s.tick
    pos := Config.unspecifiedPos s.tick % 2 ^ posWidth s.params.preambleLen
    rsp := none }

/-- What the input ports show in the next step: the script, and past its end the free environment
(log 1). -/
def State.nextPorts (s : State) : Ports :=
  match s.inputs with
  | p :: _ => p
  | [] => Config.environment s.tick

/-- The start of a step: the input ports are sampled and the response port of the step before falls silent
(60_exceptions.md R121). -/
def State.sample (s : State) : State :=
  { s with ports := s.nextPorts, inputs := s.inputs.tail, tick := s.tick + 1, rsp := none }

/-- The word on the command port, decoded (30_encoding.md R48). -/
def State.presented (s : State) : Except DecodeError Instr := decodeCommand s.ports.cmd

/-! ## Placing an instruction for the next step (the host's question) -/

/-- Ports on which the host presents a word. -/
def presentPorts (w : CommandWord) : Ports :=
  { rst := false, cmdValid := true, cmd := w, txReady := false, txFault := false }

/-- Ports on which the transport accepts a bit. -/
def acceptPorts : Ports :=
  { rst := false, cmdValid := false, cmd := 0#32, txReady := true, txFault := false }

/-- The next step finds the block idle and the word on the command port. -/
def State.placeCommand (s : State) (w : CommandWord) : State :=
  { s with busy := false, inputs := presentPorts w :: s.inputs }

/-- The next step finds the byte as `BUF[0]` of a frame in flight whose preamble is sent, and the transport
accepting (log 11). -/
def State.placeByte (s : State) (b : Byte) : State :=
  { s with busy := true, buf := s.buf.set 0 b, nb := 3#3, pos := s.params.preambleLen, inputs := acceptPorts :: s.inputs }

/-- The next step finds the packet in flight with no bit sent yet, and the transport accepting (log 11). -/
def State.placePacket (s : State) (p : BitVec 24) : State :=
  { s.startFrame [p.extractLsb' 16 8, p.extractLsb' 8 8, p.extractLsb' 0 8] with inputs := acceptPorts :: s.inputs }

end Sys2Proof.Machine
end

