-- ==== Sys2Proof/Machine/Accessory.lean ====
section
/-! DEFINITION. `ACC`: send a basic accessory packet (43_accessory.md R90). -/

namespace Sys2Proof.Machine

/-- `ACC addr, active, sub` (R90): `InvalidAddress`, then `InvalidSubState`, then the packet. The loco
context is neither read nor written. -/
def execAcc (sub : BitVec 4) (active : Bool) (addr : BitVec 16) (s : State) : Result :=
  s.whenReady <|
    if validAcc addr then
      if validSub sub then sendPacket [accByte1 addr, accByte2 addr active sub] s
      else raise .invalidSubState s
    else raise .invalidAddress s

end Sys2Proof.Machine
end

