-- ==== Sys2Proof/Machine/Broadcast.lean ====
section
/-! DEFINITION. The broadcast commands (46_broadcast.md). Their packets are literals, the checksum
included (44_checksum.md R98). -/

namespace Sys2Proof.Machine

/-- `RST` (R115): the broadcast reset packet. The block's own registers are not reset (R118). -/
def execRst (s : State) : Result := s.whenReady (.next (s.startFrame [0x00#8, 0x00#8, 0x00#8]))

/-- `IDLE` (R116): the idle packet. -/
def execIdle (s : State) : Result := s.whenReady (.next (s.startFrame [0xFF#8, 0x00#8, 0xFF#8]))

/-- `ESTOP` (R117): the stop-all packet, the literal `0x70` in every mode (90_conflicts.md C9). -/
def execEstop (s : State) : Result := s.whenReady (.next (s.startFrame [0x00#8, 0x70#8, 0x70#8]))

end Sys2Proof.Machine
end

