-- ==== Sys2Proof/Machine/Function.lean ====
section
/-! DEFINITION. `FN`: set one function bit and send its group (42_function.md R83). -/

namespace Sys2Proof.Machine

/-- `FN idx, ON|OFF` (R83): `InvalidAddress` with no loco constructed, then `FunctionNotAvailable`, then
the bit is written and the group's packet, built after the write, is sent. -/
def execFn (idx : BitVec 4) (on : Bool) (s : State) : Result :=
  s.whenReady <|
    if s.laddr = 0#7 then raise .invalidAddress s
    else if 12 < idx.toNat then raise .functionNotAvailable s
    else
      let s' := s.writeFn idx.toNat on
      sendPacket [locoAddrByte s'.laddr, fnByte s'.params.fnLayout (fnGroup idx.toNat) s'.fn] s'

end Sys2Proof.Machine
end

