-- ==== Sys2Proof/Machine/Loco.lean ====
section
/-! DEFINITION. `LINIT`: construct the loco context (40_address.md R63). -/

namespace Sys2Proof.Machine

/-- `LINIT addr, mode` (R63): `IllegalCommand` for `MODE = 3`, then `InvalidAddress`, then the context is
written and the response is `OK` in the same step; no frame. With the switch of U7 set to refuse 14-step
mode, `MODE = 0` is refused (log 14). -/
def execLinit (mode : BitVec 2) (addr : BitVec 16) (s : State) : Result :=
  s.whenReady <|
    if mode = 3#2 then raise .illegalCommand s
    else if mode = 0#2 ∧ s.params.mode14 = .refused then .refused .mode14Refused
    else if validLoco addr then .next ((s.construct mode addr).respond .ok)
    else raise .invalidAddress s

end Sys2Proof.Machine
end

