-- ==== Sys2Proof/Machine/Speed.lean ====
section
/-! DEFINITION. `SPD`: send a speed-and-direction packet (41_speed.md R70, R73 to R75). -/

namespace Sys2Proof.Machine

/-- `SPD speed, dir` (R70): `InvalidAddress` with no loco constructed, then `InvalidSpeed` outside the
mode's range, then the packet of the mode. `MODE = 3` is never held (10_state.md R12; log 8). -/
def execSpd (dir : Bool) (speed : BitVec 8) (s : State) : Result :=
  s.whenReady <|
    if s.laddr = 0#7 then raise .invalidAddress s
    else
      match stepModeOf s.mode with
      | none => .fault .modeNotHeld
      | some m =>
        if validSpeed m speed.toInt then
          sendPacket (locoAddrByte s.laddr :: speedBytes m speed.toInt dir) s
        else raise .invalidSpeed s

end Sys2Proof.Machine
end

