-- ==== Sys2Proof/Machine/Wire.lean ====
section
/-! DEFINITION. The rows of the output language (30_encoding.md R49, R50). A packet byte or a literal packet
is no command; what the block does with one is to send it. The meaning of a row is one step of the sequencer
on that byte or packet (45_framer.md R103 to R105, 60_exceptions.md R130; log 9): the transport accepts and
the next bit goes to `TX`, or it stalls and nothing changes, or it faults and the frame is dropped. -/

namespace Sys2Proof.Machine

/-- `DCC.LOCOADDR`, `0aaaaaaa` (40_address.md R60). -/
def execDccLocoaddr (a : BitVec 7) (s : State) : Result := sendByte (0#1 ++ a) s

/-- `DCC.ACC.B1`, `10aaaaaa` (40_address.md R61). -/
def execDccAccB1 (a : BitVec 6) (s : State) : Result := sendByte (0b10#2 ++ a) s

/-- `DCC.ACC.B2`, `1hhhcsss` (40_address.md R62). -/
def execDccAccB2 (h : BitVec 3) (c : Bool) (sub : BitVec 3) (s : State) : Result :=
  sendByte (1#1 ++ h ++ BitVec.ofBool c ++ sub) s

/-- `DCC.SPEED128.B1`, the constant `0x3F` (41_speed.md R71). -/
def execDccSpeed128B1 (s : State) : Result := sendByte 0x3F#8 s

/-- `DCC.SPEED128.B2`, `dfffffff` (41_speed.md R71). -/
def execDccSpeed128B2 (d : Bool) (f : BitVec 7) (s : State) : Result := sendByte (BitVec.ofBool d ++ f) s

/-- `DCC.SPEED28`, `01dcrrrr` (41_speed.md R72). -/
def execDccSpeed28 (d : Bool) (c : Bool) (r : BitVec 4) (s : State) : Result :=
  sendByte (0b01#2 ++ BitVec.ofBool d ++ BitVec.ofBool c ++ r) s

/-- `DCC.FN.G1`, `100fffff` (42_function.md R82). -/
def execDccFnG1 (f : BitVec 5) (s : State) : Result := sendByte (0b100#3 ++ f) s

/-- `DCC.FN.G2U`, `1011ffff` (42_function.md R82). -/
def execDccFnG2u (f : BitVec 4) (s : State) : Result := sendByte (0b1011#4 ++ f) s

/-- `DCC.FN.G2L`, `1010ffff` (42_function.md R82). -/
def execDccFnG2l (f : BitVec 4) (s : State) : Result := sendByte (0b1010#4 ++ f) s

/-- `DCC.CHECKSUM` (44_checksum.md R95, R96): the sequencer sends it as it stands and checks nothing. -/
def execDccChecksum (x : Byte) (s : State) : Result := sendByte x s

/-- `DCC.PKT.RESET`, `00 00 00` (46_broadcast.md R115). -/
def execDccPktReset (s : State) : Result := sendLiteral [0x00#8, 0x00#8, 0x00#8] s

/-- `DCC.PKT.IDLE`, `FF 00 FF` (46_broadcast.md R116). -/
def execDccPktIdle (s : State) : Result := sendLiteral [0xFF#8, 0x00#8, 0xFF#8] s

/-- `DCC.PKT.STOPALL`, `00 70 70` (46_broadcast.md R117). -/
def execDccPktStopall (s : State) : Result := sendLiteral [0x00#8, 0x70#8, 0x70#8] s

end Sys2Proof.Machine
end

