-- ==== Sys2Proof/Machine/Dispatch.lean ====
section
/-! DEFINITION. The meaning of every row of the opcode table, one arm each. -/

namespace Sys2Proof.Machine

def exec (i : Instr) (s : State) : Host.Outcome State Fault Refusal :=
  match i with
  | .linit mode addr => Sys2Proof.Machine.execLinit mode addr s
  | .spd dir speed => Sys2Proof.Machine.execSpd dir speed s
  | .fn idx on => Sys2Proof.Machine.execFn idx on s
  | .acc sub active addr => Sys2Proof.Machine.execAcc sub active addr s
  | .rst => Sys2Proof.Machine.execRst s
  | .idle => Sys2Proof.Machine.execIdle s
  | .estop => Sys2Proof.Machine.execEstop s
  | .dccLocoaddr a => Sys2Proof.Machine.execDccLocoaddr a s
  | .dccAccB1 a => Sys2Proof.Machine.execDccAccB1 a s
  | .dccAccB2 h c sub => Sys2Proof.Machine.execDccAccB2 h c sub s
  | .dccSpeed128B1 => Sys2Proof.Machine.execDccSpeed128B1 s
  | .dccSpeed128B2 d f => Sys2Proof.Machine.execDccSpeed128B2 d f s
  | .dccSpeed28 d c r => Sys2Proof.Machine.execDccSpeed28 d c r s
  | .dccFnG1 f => Sys2Proof.Machine.execDccFnG1 f s
  | .dccFnG2u f => Sys2Proof.Machine.execDccFnG2u f s
  | .dccFnG2l f => Sys2Proof.Machine.execDccFnG2l f s
  | .dccChecksum x => Sys2Proof.Machine.execDccChecksum x s
  | .dccPktReset => Sys2Proof.Machine.execDccPktReset s
  | .dccPktIdle => Sys2Proof.Machine.execDccPktIdle s
  | .dccPktStopall => Sys2Proof.Machine.execDccPktStopall s

end Sys2Proof.Machine
end

