-- ==== Sys2Proof/Machine/Step.lean ====
section
/-! DEFINITION. One step of the block (10_state.md R24): reset, an `Execute` step (45_framer.md R101), a step
of the sequencer (R104), or nothing. -/

namespace Sys2Proof.Machine

/-- The part of a step after the input ports are sampled. `rst` overrides all (70_reset_and_hazards.md
R140). While a frame is in flight the sequencer steps and the command port is not looked at (R146). Idle,
a presented word is executed, or answered with `IllegalCommand` if it is illegal (30_encoding.md R48,
60_exceptions.md R125); with no word presented nothing happens and the transport is ignored. -/
def stepSampled (s : State) : Host.Outcome State Fault Refusal :=
  if s.ports.rst then .next s.applyReset
  else if s.busy then sequenceFrame s
  else if s.ports.cmdValid then
    match s.presented with
    | .ok i => exec i s
    | .error _ => raise .illegalCommand s
  else .next s

/-- One step: sample the input ports, then act. -/
def step (s : State) : Host.Outcome State Fault Refusal := stepSampled s.sample

/-- The host's question: `s` with the table row's bits where the next step takes its instruction from: a
command word on the command port, a packet byte or a literal packet in the frame in flight (log 11). -/
def State.withFetchWord (s : State) (nbits w : Nat) : State :=
  match nbits with
  | 8 => s.placeByte (BitVec.ofNat 8 w)
  | 24 => s.placePacket (BitVec.ofNat 24 w)
  | _ => s.placeCommand (BitVec.ofNat 32 w)

end Sys2Proof.Machine
end

