-- ==== Sys2Proof/Machine/Flags.lean ====
section
/-! DEFINITION. The block has no condition codes and no sticky error flag (10_state.md R18). What it shows
instead: the response codes (60_exceptions.md R120) and the output ports (20_memory.md R31, 10_state.md
R23), as functions of the state. -/

namespace Sys2Proof.Machine

/-- The numbers of the response codes (60_exceptions.md R120). -/
def Response.code : Response → BitVec 3
  | .ok => 0#3
  | .invalidAddress => 1#3
  | .invalidSpeed => 2#3
  | .functionNotAvailable => 3#3
  | .stateNotAvailable => 4#3
  | .transportError => 5#3
  | .invalidSubState => 6#3
  | .illegalCommand => 7#3

/-- `cmd_ready`: 1 exactly when `BUSY = 0` (20_memory.md R31). -/
def State.cmdReady (s : State) : Bool := !s.busy

/-- `rsp_valid` (60_exceptions.md R121). -/
def State.rspValid (s : State) : Bool := s.rsp.isSome

/-- `rsp_code[2:0]`; a free value while `rsp_valid = 0` (U8; log 6). -/
def State.rspCode (s : State) : BitVec 3 :=
  match s.rsp with
  | some r => r.code
  | none => Config.idleRspCode s.tick

/-- `tx_valid`: 1 exactly when `BUSY = 1` (20_memory.md R31). -/
def State.txValid (s : State) : Bool := s.busy

/-- `tx_bit`: the offered bit `BitAt(POS)`; a free value while `tx_valid = 0` (45_framer.md R104, U8;
log 6) and where `BitAt` is not defined. -/
def State.txBit (s : State) : Bool :=
  if s.busy then s.offeredBit.getD (Config.idleTxBit s.tick) else Config.idleTxBit s.tick

/-- `fn_state[12:0]` (10_state.md R23). -/
def State.fnState (s : State) : BitVec 13 := s.fn

/-- `laddr[6:0]` (10_state.md R23). -/
def State.laddrPort (s : State) : BitVec 7 := s.laddr

/-- `mode[1:0]` (10_state.md R23). -/
def State.modePort (s : State) : BitVec 2 := s.mode

/-- `busy` (10_state.md R23). -/
def State.busyPort (s : State) : Bool := s.busy

end Sys2Proof.Machine
end

