-- ==== Sys2Proof/Safety.lean ====
section
/-! DEFINITION. What a good state is: the invariants of 10_state.md R21, the packet shapes of 30_encoding.md
R49, and what a safe step is. -/

namespace Sys2Proof.Machine

/-- The used bytes `BUF[0..NB-1]` of the frame in flight. -/
def State.packet (s : State) : List Byte := [s.buf.b0, s.buf.b1, s.buf.b2, s.buf.b3].take s.nb.toNat

/-- The invariants of 10_state.md R21, with the constraint on `PREAMBLE_LEN` (00_scope.md R5) and the
width of `POS` (R15). R21 (b) holds by the width of `LADDR`. -/
structure Inv (s : State) : Prop where
  /-- R21 (a). -/
  mode_held : s.mode ≠ 3#2
  /-- R21 (c): the length. -/
  frame_length : s.busy = true → s.nb = 3#3 ∨ s.nb = 4#3
  /-- R21 (c): the position. -/
  frame_pos : s.busy = true → s.pos ≤ s.params.preambleLen + 9 * s.nb.toNat
  /-- R21 (c): the checksum law. -/
  frame_checksum : s.busy = true → xorBytes s.packet = 0x00#8
  /-- R21 (d). -/
  no_loco_no_functions : s.laddr = 0#7 → s.fn = 0#13
  /-- R5. -/
  preamble_bound : 14 ≤ s.params.preambleLen
  /-- R15. -/
  pos_width : s.pos < 2 ^ posWidth s.params.preambleLen

/-- A locomotive address byte: bit 7 clear, not the broadcast address (30_encoding.md R50, R52). -/
def isLocoByte (b : Byte) : Bool := !b.getLsbD 7 && b != 0x00#8

/-- The packet shapes of 30_encoding.md R49, bytes before the checksum. -/
def legalData (data : List Byte) : Bool :=
  match data with
  | [b0, b1] =>
    (b0 == 0x00#8 && b1 == 0x00#8) || (b0 == 0xFF#8 && b1 == 0x00#8) || (b0 == 0x00#8 && b1 == 0x70#8)
      || (isLocoByte b0 && b1.extractLsb' 6 2 == 0b01#2)
      || (isLocoByte b0 && b1.extractLsb' 5 3 == 0b100#3)
      || (isLocoByte b0 && b1.extractLsb' 4 4 == 0b1011#4)
      || (isLocoByte b0 && b1.extractLsb' 4 4 == 0b1010#4)
      || (b0.extractLsb' 6 2 == 0b10#2 && b1.getLsbD 7)
  | [b0, b1, _] => isLocoByte b0 && b1 == 0x3F#8
  | _ => false

/-- A whole packet of 30_encoding.md R49: legal data bytes and their checksum. -/
def legalPacket (bytes : List Byte) : Bool :=
  legalData bytes.dropLast && bytes == bytes.dropLast ++ [xorBytes bytes.dropLast]

/-- Only packets of 30_encoding.md R49 are ever in flight. -/
def PacketInFlightLegal (s : State) : Prop := s.busy = true → legalPacket s.packet = true

/-- The first line of every command's pseudocode: an illegal word of opcode `op`, presented to the idle block,
is answered with `IllegalCommand` and changes no register (30_encoding.md R48). -/
def IllegalWordIsRefused (op : BitVec 4) : Prop :=
  ∀ (s : State) (e : DecodeError), s.nextPorts.rst = false → s.busy = false → s.nextPorts.cmdValid = true →
    s.nextPorts.cmd.extractLsb' 28 4 = op → decodeCommand s.nextPorts.cmd = .error e →
    step s = .next { s.sample with rsp := some .illegalCommand }

/-- A safe step: it neither faults nor is refused. -/
def SafeStep (s : State) : Prop := ∃ t, step s = .next t

end Sys2Proof.Machine
end

