-- ==== Sys2Proof/Certificates/Slice0/Obligations.lean ====
section
/-! DEFINITION. The statements for the provers. Each docstring names the rule of spec/ it formalises. The
loco context, the sequencer, the ports' record and the parameters are all fields of one record, so an
equation `exec i s = .next { s with ... }` says the frame too: every field not named is unchanged. The block
has no memory (20_memory.md R30). -/

open Sys2Proof Sys2Proof.Machine

/-! ## Encoding -/

/-- 30_encoding.md R55: the words of the table of examples, written out, decode as the table says. -/
def Obligations.DecodeReadsTheExampleWords : Prop :=
  decodeCommand 0x12000003#32 = .ok (.linit 2#2 3#16) ∧
  decodeCommand 0x1100000A#32 = .ok (.linit 1#2 10#16) ∧
  decodeCommand 0x10000005#32 = .ok (.linit 0#2 5#16) ∧
  decodeCommand 0x213C0000#32 = .ok (.spd true 60#8) ∧
  decodeCommand 0x20FF0000#32 = .ok (.spd false (BitVec.ofInt 8 (-1))) ∧
  decodeCommand 0x21FD0000#32 = .ok (.spd true (BitVec.ofInt 8 (-3))) ∧
  decodeCommand 0x30010000#32 = .ok (.fn 0#4 true) ∧
  decodeCommand 0x3C000000#32 = .ok (.fn 12#4 false) ∧
  decodeCommand 0x3D010000#32 = .ok (.fn 13#4 true) ∧
  decodeCommand 0x4101002A#32 = .ok (.acc 1#4 true 42#16) ∧
  decodeCommand 0x470101FF#32 = .ok (.acc 7#4 true 511#16) ∧
  decodeCommand 0x50000000#32 = .ok .rst ∧
  decodeCommand 0x60000000#32 = .ok .idle ∧
  decodeCommand 0x70000000#32 = .ok .estop ∧
  decodeCommand 0x00000000#32 = .error .reservedOpcode ∧
  decodeCommand 0x50000001#32 = .error .mustBeZero ∧
  decodeCommand 0x13000003#32 = .error .illegalMode

/-- Decode and encode agree on all twenty rows, with every operand (30_encoding.md R41 to R46, R49, R50): each
well-formed instruction decodes from its bits in its place; a locomotive address byte does so in all three
packets that open with one, a checksum byte at the end of every packet. -/
def Obligations.WellFormedInstructionDecodesFromItsEncoding : Prop :=
  (∀ i : Instr, i.wellFormed = true → decodeAt i.place (encode i) = .ok i) ∧
  (∀ (shape : PacketShape) (a : BitVec 7), a ≠ 0#7 →
    shape = .speed128 ∨ shape = .speed28 ∨ shape = .functionGroup →
    decodeAt (.packetByte shape 0) (encode (.dccLocoaddr a)) = .ok (.dccLocoaddr a)) ∧
  (∀ x : Byte,
    decodeAt (.packetByte .speed128 3) (encode (.dccChecksum x)) = .ok (.dccChecksum x) ∧
    ∀ shape : PacketShape, shape ≠ .speed128 →
      decodeAt (.packetByte shape 2) (encode (.dccChecksum x)) = .ok (.dccChecksum x))

/-- The other direction for command words (30_encoding.md R40 to R48): a word that decodes is the encoding of
a well-formed command, so no two words mean the same command and no bit is dropped. -/
def Obligations.LegalWordIsTheEncodingOfItsCommand : Prop :=
  ∀ (w : CommandWord) (i : Instr), decodeCommand w = .ok i →
    i.wellFormed = true ∧ i.isCommand = true ∧ encode i = .command w

/-- 30_encoding.md R48 and 60_exceptions.md R125: a word is illegal exactly under (a) a reserved opcode, (b) a
must-be-zero bit set, (c) `LINIT` with `MODE = 3`; presented to the idle block it changes no register and gets
`IllegalCommand`. Every other word is one of the seven commands. -/
def Obligations.IllegalWordsAreThoseOfTheRuleAndDoNothing : Prop :=
  (∀ w : CommandWord,
    (∃ e, decodeCommand w = .error e) ↔
      (w.extractLsb' 28 4 = 0#4 ∨ 8#4 ≤ w.extractLsb' 28 4) ∨
      (w.extractLsb' 28 4 = 1#4 ∧
        (w.extractLsb' 26 2 ≠ 0#2 ∨ w.extractLsb' 16 8 ≠ 0#8 ∨ w.extractLsb' 24 2 = 3#2)) ∨
      (w.extractLsb' 28 4 = 2#4 ∧ (w.extractLsb' 25 3 ≠ 0#3 ∨ w.extractLsb' 0 16 ≠ 0#16)) ∨
      (w.extractLsb' 28 4 = 3#4 ∧ (w.extractLsb' 17 7 ≠ 0#7 ∨ w.extractLsb' 0 16 ≠ 0#16)) ∨
      (w.extractLsb' 28 4 = 4#4 ∧ w.extractLsb' 17 7 ≠ 0#7) ∨
      ((w.extractLsb' 28 4 = 5#4 ∨ w.extractLsb' 28 4 = 6#4 ∨ w.extractLsb' 28 4 = 7#4) ∧
        w.extractLsb' 0 28 ≠ 0#28)) ∧
  (∀ w : CommandWord, (∃ e, decodeCommand w = .error e) ∨
    ∃ i, decodeCommand w = .ok i ∧ i.isCommand = true) ∧
  (∀ (s : State) (e : DecodeError), s.nextPorts.rst = false → s.busy = false →
    s.nextPorts.cmdValid = true → decodeCommand s.nextPorts.cmd = .error e →
    step s = .next { s.sample with rsp := some .illegalCommand })

/-! ## The codecs -/

/-- 40_address.md R66: the address bytes carry their operands so that they can be recovered, and `LINIT`
refuses addresses outside 1 to 127 for every legal mode; for `MODE = 0` the switch of U7 is at its default
(log 14). -/
def Obligations.AddressBytesRecoverTheirOperands : Prop :=
  (∀ a : BitVec 7, (locoAddrByte a).getLsbD 7 = false ∧ (locoAddrByte a).extractLsb' 0 7 = a) ∧
  (∀ (a : BitVec 16) (c : Bool) (sub : BitVec 4),
    (accByte1 a).extractLsb' 6 2 = 0b10#2 ∧ (accByte1 a).extractLsb' 0 6 = a.extractLsb' 0 6 ∧
    (accByte2 a c sub).getLsbD 7 = true ∧
    (accByte2 a c sub).extractLsb' 4 3 ^^^ 0b111#3 = a.extractLsb' 6 3 ∧
    (accByte2 a c sub).getLsbD 3 = c ∧ (accByte2 a c sub).extractLsb' 0 3 = sub.extractLsb' 0 3) ∧
  (∀ (s : State) (mode : BitVec 2) (addr : BitVec 16), s.busy = false → mode ≠ 3#2 →
    (mode = 0#2 → s.params.mode14 = .likeMode28) → addr = 0#16 ∨ 128#16 ≤ addr →
    exec (.linit mode addr) s = .next { s with rsp := some .invalidAddress })

/-- 41_speed.md R78: the speed bytes give back speed and direction, on each function's whole valid range, and
both functions are injective there. -/
def Obligations.SpeedBytesRecoverSpeedAndDirection : Prop :=
  (∀ (v : Int) (dir : Bool), -1 ≤ v → v ≤ 126 →
    (speed128 v dir).1 = 0x3F#8 ∧ (speed128 v dir).2.getLsbD 7 = dir ∧
    (((speed128 v dir).2.extractLsb' 0 7).toNat : Int) - 1 = v) ∧
  (∀ (v : Int) (dir : Bool), -3 ≤ v → v ≤ 28 →
    (speed28 v dir).getLsbD 5 = dir ∧
    (((speed28 v dir).extractLsb' 0 4).toNat * 2 + ((speed28 v dir).getLsbD 4).toNat : Int) - 3 = v) ∧
  (∀ (v v' : Int) (dir dir' : Bool), -1 ≤ v → v ≤ 126 → -1 ≤ v' → v' ≤ 126 →
    speed128 v dir = speed128 v' dir' → v = v' ∧ dir = dir') ∧
  (∀ (v v' : Int) (dir dir' : Bool), -3 ≤ v → v ≤ 28 → -3 ≤ v' → v' ≤ 28 →
    speed28 v dir = speed28 v' dir' → v = v' ∧ dir = dir')

/-- 42_function.md R82: where each function bit stands in its group's byte, in both layouts, and that the
layouts agree when the four bits other than F0 are equal. -/
def Obligations.FunctionByteHoldsItsBitsByLayout : Prop :=
  ∀ fn : BitVec 13,
    let f : Nat → Byte := fun i => (fn.extractLsb' i 1).setWidth 8
    fnByte .nmra .group1 fn = 0x80#8 ||| f 0 <<< 4 ||| f 4 <<< 3 ||| f 3 <<< 2 ||| f 2 <<< 1 ||| f 1 ∧
    fnByte .nmra .group2Upper fn = 0xB0#8 ||| f 8 <<< 3 ||| f 7 <<< 2 ||| f 6 <<< 1 ||| f 5 ∧
    fnByte .nmra .group2Lower fn = 0xA0#8 ||| f 12 <<< 3 ||| f 11 <<< 2 ||| f 10 <<< 1 ||| f 9 ∧
    fnByte .concat .group1 fn = 0x80#8 ||| f 0 <<< 4 ||| f 1 <<< 3 ||| f 2 <<< 2 ||| f 3 <<< 1 ||| f 4 ∧
    fnByte .concat .group2Upper fn = 0xB0#8 ||| f 5 <<< 3 ||| f 6 <<< 2 ||| f 7 <<< 1 ||| f 8 ∧
    fnByte .concat .group2Lower fn = 0xA0#8 ||| f 9 <<< 3 ||| f 10 <<< 2 ||| f 11 <<< 1 ||| f 12 ∧
    (f 1 = f 2 → f 2 = f 3 → f 3 = f 4 → fnByte .nmra .group1 fn = fnByte .concat .group1 fn) ∧
    (f 5 = f 6 → f 6 = f 7 → f 7 = f 8 → fnByte .nmra .group2Upper fn = fnByte .concat .group2Upper fn) ∧
    (f 9 = f 10 → f 10 = f 11 → f 11 = f 12 →
      fnByte .nmra .group2Lower fn = fnByte .concat .group2Lower fn)

/-- 44_checksum.md R95: each bit of the checksum is the parity of that bit over all the bytes. -/
def Obligations.ChecksumBitIsTheParityOfItsColumn : Prop :=
  ∀ (bytes : List Byte) (i : Nat),
    (xorBytes bytes).getLsbD i = decide ((bytes.countP fun b => b.getLsbD i) % 2 = 1)

/-- 45_framer.md R109: the shape of every frame: preamble, separators, bytes most significant bit first, stop
bit, length; the groups read back are the bytes, so a packet's groups fold to zero. -/
def Obligations.FrameHasItsShape : Prop :=
  ∀ (bytes : List Byte) (P : Nat),
    let F := frame bytes P
    let n := bytes.length
    let readBack : List Byte := (List.range n).map fun k =>
      let b := fun j => F.getD (P + 9 * k + j) false
      byteOfBits (b 1) (b 2) (b 3) (b 4) (b 5) (b 6) (b 7) (b 8)
    F.length = P + 9 * n + 1 ∧
    (∀ i, i < P → F[i]? = some true) ∧
    (∀ k, k < n → F[P + 9 * k]? = some false) ∧
    (∀ k j, k < n → 1 ≤ j → j ≤ 8 →
      F[P + 9 * k + j]? = (bytes[k]?).map fun b => b.getLsbD (8 - j)) ∧
    F[P + 9 * n]? = some true ∧
    readBack = bytes ∧
    (∀ data, bytes = data ++ [xorBytes data] → xorBytes readBack = 0x00#8)

/-- 45_framer.md R103: `BitAt` by its cases (preamble, separators, data bits, stop bit), and for every position
of the frame in flight it is that bit of `Frame`. -/
def Obligations.BitAtIsTheBitOfTheFrame : Prop :=
  ∀ (P nb : Nat) (buf : PacketBuffer), nb ≤ 4 →
    (∀ pos, pos < P → bitAt P buf nb pos = some true) ∧
    (∀ k, k < nb → bitAt P buf nb (P + 9 * k) = some false) ∧
    (∀ k j, k < nb → 1 ≤ j → j ≤ 8 →
      bitAt P buf nb (P + 9 * k + j) = (buf.get? k).map fun b => b.getLsbD (8 - j)) ∧
    bitAt P buf nb (P + 9 * nb) = some true ∧
    ∀ pos, pos ≤ P + 9 * nb →
      ∃ b, bitAt P buf nb pos = some b ∧
        (frame ([buf.b0, buf.b1, buf.b2, buf.b3].take nb) P)[pos]? = some b

/-! ## The commands -/

/-- 40_address.md R63: `LINIT` on the idle block, all its cases, an illegal word of its opcode included. For
`MODE = 0` the switch of U7 is at its default (log 14); the other modes do not read it. -/
def Obligations.LinitConstructsTheContextOrRefuses : Prop :=
  IllegalWordIsRefused 1#4 ∧
  ∀ (s : State) (mode : BitVec 2) (addr : BitVec 16), s.busy = false →
    (mode = 0#2 → s.params.mode14 = .likeMode28) →
    (mode = 3#2 → exec (.linit mode addr) s = .next { s with rsp := some .illegalCommand }) ∧
    (mode ≠ 3#2 → addr = 0#16 ∨ 128#16 ≤ addr →
      exec (.linit mode addr) s = .next { s with rsp := some .invalidAddress }) ∧
    (mode ≠ 3#2 → 1#16 ≤ addr → addr ≤ 127#16 →
      exec (.linit mode addr) s =
        .next { s with laddr := addr.extractLsb' 0 7, mode := mode, fn := 0#13, rsp := some .ok })

/-- The model's switch for 93_implementation_defined.md U7 (log 14): set to refuse, `LINIT` with `MODE = 0` is
refused by name whatever the address, and no other `LINIT` is: `MODE = 3` answers `IllegalCommand`, and 28- and
128-step mode answer `InvalidAddress` or construct the context as before. -/
def Obligations.CautiousSwitchRefusesOnlyMode14 : Prop :=
  ∀ (s : State) (mode : BitVec 2) (addr : BitVec 16), s.busy = false → s.params.mode14 = .refused →
    (mode = 0#2 → exec (.linit mode addr) s = .refused .mode14Refused) ∧
    (mode = 3#2 → exec (.linit mode addr) s = .next { s with rsp := some .illegalCommand }) ∧
    (mode = 1#2 ∨ mode = 2#2 → addr = 0#16 ∨ 128#16 ≤ addr →
      exec (.linit mode addr) s = .next { s with rsp := some .invalidAddress }) ∧
    (mode = 1#2 ∨ mode = 2#2 → 1#16 ≤ addr → addr ≤ 127#16 →
      exec (.linit mode addr) s =
        .next { s with laddr := addr.extractLsb' 0 7, mode := mode, fn := 0#13, rsp := some .ok })

/-- 41_speed.md R73: `SPD` in `MODE128`, in and out of range, the frame's length included. -/
def Obligations.SpdInMode128SendsFourBytes : Prop :=
  ∀ (s : State) (dir : Bool) (speed : BitVec 8), s.busy = false → s.laddr ≠ 0#7 → s.mode = 2#2 →
    let a : Byte := 0#1 ++ s.laddr
    let i2 : Byte := BitVec.ofBool dir ++ BitVec.ofInt 7 (speed.toInt + 1)
    (-1 ≤ speed.toInt → speed.toInt ≤ 126 →
      exec (.spd dir speed) s =
        .next { s with
          buf := { b0 := a, b1 := 0x3F#8, b2 := i2, b3 := a ^^^ 0x3F#8 ^^^ i2 }
          nb := 4#3, pos := 0, busy := true } ∧
      (frame [a, 0x3F#8, i2, a ^^^ 0x3F#8 ^^^ i2] s.params.preambleLen).length = s.params.preambleLen + 37) ∧
    (speed.toInt < -1 ∨ 126 < speed.toInt →
      exec (.spd dir speed) s = .next { s with rsp := some .invalidSpeed })

/-- 41_speed.md R74: `SPD` in `MODE28`, in and out of range, the frame's length included. -/
def Obligations.SpdInMode28SendsThreeBytes : Prop :=
  ∀ (s : State) (dir : Bool) (speed : BitVec 8), s.busy = false → s.laddr ≠ 0#7 → s.mode = 1#2 →
    let a : Byte := 0#1 ++ s.laddr
    let r : BitVec 5 := BitVec.ofInt 5 (speed.toInt + 3)
    let i : Byte := 0b01#2 ++ BitVec.ofBool dir ++ r.extractLsb' 0 1 ++ r.extractLsb' 1 4
    (-3 ≤ speed.toInt → speed.toInt ≤ 28 →
      exec (.spd dir speed) s =
        .next { s with
          buf := { b0 := a, b1 := i, b2 := a ^^^ i, b3 := s.buf.b3 }
          nb := 3#3, pos := 0, busy := true } ∧
      (frame [a, i, a ^^^ i] s.params.preambleLen).length = s.params.preambleLen + 28) ∧
    (speed.toInt < -3 ∨ 28 < speed.toInt →
      exec (.spd dir speed) s = .next { s with rsp := some .invalidSpeed })

/-- 41_speed.md R75: `SPD` in `MODE14` answers what it answers in `MODE28`, the held mode apart. -/
def Obligations.SpdInMode14BehavesAsInMode28 : Prop :=
  ∀ (s : State) (dir : Bool) (speed : BitVec 8), s.mode = 0#2 →
    ∃ t, exec (.spd dir speed) { s with mode := 1#2 } = .next t ∧
      exec (.spd dir speed) s = .next { t with mode := 0#2 }

/-- 60_exceptions.md R122 (b): `SPD` and `FN` with no loco constructed, whatever their operands. -/
def Obligations.SpdAndFnNeedALoco : Prop :=
  ∀ s : State, s.busy = false → s.laddr = 0#7 →
    (∀ dir speed, exec (.spd dir speed) s = .next { s with rsp := some .invalidAddress }) ∧
    (∀ idx on, exec (.fn idx on) s = .next { s with rsp := some .invalidAddress })

/-- 42_function.md R83 with R81 and R84: `FN` on the idle block, all its cases, an illegal word of its opcode
included: it writes its one bit and sends the three-byte packet of the one group that holds it, built after the
write; with no loco or with an index above 12 it is refused and no bit changes. -/
def Obligations.FnWritesOneBitAndSendsItsGroup : Prop :=
  IllegalWordIsRefused 3#4 ∧
  ∀ (s : State) (idx : BitVec 4) (on : Bool), s.busy = false →
    (s.laddr = 0#7 → exec (.fn idx on) s = .next { s with rsp := some .invalidAddress }) ∧
    (s.laddr ≠ 0#7 → idx.toNat ≤ 12 →
      ∃ fn' : BitVec 13, ∃ g : FnGroup,
        (∀ j, j < 13 → fn'.getLsbD j = if j = idx.toNat then on else s.fn.getLsbD j) ∧
        (idx.toNat ≤ 4 → g = .group1) ∧ (5 ≤ idx.toNat → idx.toNat ≤ 8 → g = .group2Upper) ∧
        (9 ≤ idx.toNat → g = .group2Lower) ∧
        let a : Byte := 0#1 ++ s.laddr
        let b : Byte := fnByte s.params.fnLayout g fn'
        exec (.fn idx on) s =
          .next { s with
            fn := fn'
            buf := { b0 := a, b1 := b, b2 := a ^^^ b, b3 := s.buf.b3 }
            nb := 3#3, pos := 0, busy := true }) ∧
    (s.laddr ≠ 0#7 → 13 ≤ idx.toNat →
      exec (.fn idx on) s = .next { s with rsp := some .functionNotAvailable })

/-- 42_function.md R85: the same `FN` again, once the block is idle, leaves the same registers and starts the
same frame, whatever the steps between did to the fields that sending a frame changes: `POS`, the output and
response records, the input ports, the script and the step count. -/
def Obligations.RepeatedFnSendsTheSamePacket : Prop :=
  ∀ (s : State) (idx : BitVec 4) (on : Bool), s.busy = false → s.laddr ≠ 0#7 → idx.toNat ≤ 12 →
    ∃ t, exec (.fn idx on) s = .next t ∧
      ∀ (tx : List Bool) (rsp : Option Response) (pos tick : Nat) (ports : Ports) (inputs : List Ports),
        exec (.fn idx on)
            { t with
              busy := false, tx := tx, rsp := rsp, pos := pos, tick := tick, ports := ports, inputs := inputs } =
          .next { t with tx := tx, rsp := rsp, tick := tick, ports := ports, inputs := inputs }

/-- 42_function.md R87: `FN i, v` with `v` the held value of `FN[i]` changes no function bit and sends the
group. -/
def Obligations.FnWithTheHeldValueResendsItsGroup : Prop :=
  ∀ (s : State) (idx : BitVec 4), s.busy = false → s.laddr ≠ 0#7 → idx.toNat ≤ 12 →
    ∃ t, exec (.fn idx (s.fn.getLsbD idx.toNat)) s = .next t ∧ t.fn = s.fn ∧ t.busy = true ∧
      t.packet.take 2 = [locoAddrByte s.laddr, fnByte s.params.fnLayout (fnGroup idx.toNat) s.fn]

/-- 43_accessory.md R90: `ACC` on the idle block, all its cases, from any loco context, an illegal word of its
opcode included. -/
def Obligations.AccSendsItsPacketOrRefuses : Prop :=
  IllegalWordIsRefused 4#4 ∧
  ∀ (s : State) (sub : BitVec 4) (active : Bool) (addr : BitVec 16), s.busy = false →
    let b1 : Byte := 0b10#2 ++ addr.extractLsb' 0 6
    let b2 : Byte := 1#1 ++ ~~~(addr.extractLsb' 6 3) ++ BitVec.ofBool active ++ sub.extractLsb' 0 3
    (1#16 ≤ addr → addr ≤ 511#16 → sub ≤ 7#4 →
      exec (.acc sub active addr) s =
        .next { s with
          buf := { b0 := b1, b1 := b2, b2 := b1 ^^^ b2, b3 := s.buf.b3 }
          nb := 3#3, pos := 0, busy := true }) ∧
    (addr = 0#16 ∨ 512#16 ≤ addr →
      exec (.acc sub active addr) s = .next { s with rsp := some .invalidAddress }) ∧
    (1#16 ≤ addr → addr ≤ 511#16 → 8#4 ≤ sub →
      exec (.acc sub active addr) s = .next { s with rsp := some .invalidSubState })

/-- 46_broadcast.md R115, R116, R117, R118: the broadcast commands on the idle block start the frames of their
literal packets and leave the loco context as it is; illegal words of their opcodes are refused. -/
def Obligations.BroadcastCommandsSendTheirLiterals : Prop :=
  IllegalWordIsRefused 5#4 ∧ IllegalWordIsRefused 6#4 ∧ IllegalWordIsRefused 7#4 ∧
  ∀ s : State, s.busy = false →
    exec .rst s =
      .next { s with
        buf := { b0 := 0x00#8, b1 := 0x00#8, b2 := 0x00#8, b3 := s.buf.b3 }
        nb := 3#3, pos := 0, busy := true } ∧
    exec .idle s =
      .next { s with
        buf := { b0 := 0xFF#8, b1 := 0x00#8, b2 := 0xFF#8, b3 := s.buf.b3 }
        nb := 3#3, pos := 0, busy := true } ∧
    exec .estop s =
      .next { s with
        buf := { b0 := 0x00#8, b1 := 0x70#8, b2 := 0x70#8, b3 := s.buf.b3 }
        nb := 3#3, pos := 0, busy := true }

/-- 43_accessory.md R90 ("neither read nor written") and 46_broadcast.md: `ACC` and the broadcast commands act
alike under every loco context, and keep it. -/
def Obligations.AccAndBroadcastsIgnoreTheLocoContext : Prop :=
  ∀ (i : Instr) (s : State) (fn : BitVec 13) (laddr : BitVec 7) (mode : BitVec 2),
    (∃ sub active addr, i = .acc sub active addr) ∨ i = .rst ∨ i = .idle ∨ i = .estop →
    ∃ t, exec i s = .next t ∧
      exec i { s with fn := fn, laddr := laddr, mode := mode } =
        .next { t with fn := fn, laddr := laddr, mode := mode } ∧
      t.fn = s.fn ∧ t.laddr = s.laddr ∧ t.mode = s.mode

/-- 70_reset_and_hazards.md R146 on the meanings: no command has an effect while `cmd_ready = 0`.
That a meaning asked for then is no effect is the model's reading (log 19). -/
def Obligations.CommandHasNoEffectWhileBusy : Prop :=
  ∀ (i : Instr) (s : State), i.isCommand = true → s.busy = true → exec i s = .next s

/-- 30_encoding.md R51: a command that starts a frame starts one of four bytes exactly when it is `SPD` in
`MODE128`, and of three bytes otherwise. -/
def Obligations.FourBytesExactlyForSpeed128 : Prop :=
  ∀ (i : Instr) (s t : State), s.busy = false → exec i s = .next t → t.busy = true →
    (t.nb = 4#3 ↔ (∃ dir speed, i = .spd dir speed) ∧ s.mode = 2#2) ∧ (t.nb = 3#3 ∨ t.nb = 4#3)

/-! ## The output language -/

/-- The ten packet-byte rows (30_encoding.md R50; log 9): inside the frame in flight, when the transport
accepts, the next bit of the row's group goes to `TX`: the separator 0, then bit 7 down to bit 0
(45_framer.md R100, R103, R105). -/
def Obligations.PacketByteRowsSendTheirNextBit : Prop :=
  ∀ s : State, s.busy = true → s.ports.txFault = false → s.ports.txReady = true →
    s.params.preambleLen ≤ s.pos → s.pos < s.params.preambleLen + 9 * s.nb.toNat →
    let j := (s.pos - s.params.preambleLen) % 9
    let sent : Byte → Host.Outcome State Fault Refusal := fun b =>
      .next { s with tx := s.tx ++ [if j = 0 then false else b.getLsbD (8 - j)], pos := s.pos + 1 }
    (∀ a, exec (.dccLocoaddr a) s = sent (0#1 ++ a)) ∧
    (∀ a, exec (.dccAccB1 a) s = sent (0b10#2 ++ a)) ∧
    (∀ h c sub, exec (.dccAccB2 h c sub) s = sent (1#1 ++ h ++ BitVec.ofBool c ++ sub)) ∧
    exec .dccSpeed128B1 s = sent 0b00111111#8 ∧
    (∀ d f, exec (.dccSpeed128B2 d f) s = sent (BitVec.ofBool d ++ f)) ∧
    (∀ d c r, exec (.dccSpeed28 d c r) s = sent (0b01#2 ++ BitVec.ofBool d ++ BitVec.ofBool c ++ r)) ∧
    (∀ f, exec (.dccFnG1 f) s = sent (0b100#3 ++ f)) ∧
    (∀ f, exec (.dccFnG2u f) s = sent (0b1011#4 ++ f)) ∧
    (∀ f, exec (.dccFnG2l f) s = sent (0b1010#4 ++ f)) ∧
    (∀ x, exec (.dccChecksum x) s = sent x)

/-- The three literal-packet rows (46_broadcast.md R115 to R117; log 9): when the transport accepts, the bit
at `POS` of the packet's frame goes to `TX`; after the stop bit the block is idle and answers `OK`
(45_framer.md R100, R105). -/
def Obligations.LiteralPacketRowsSendTheirFrame : Prop :=
  ∀ s : State, s.busy = true → s.ports.txFault = false → s.ports.txReady = true →
    s.pos ≤ s.params.preambleLen + 27 →
    ∀ (i : Instr) (bytes : List Byte),
      (i = .dccPktReset ∧ bytes = [0x00#8, 0x00#8, 0x00#8]) ∨
      (i = .dccPktIdle ∧ bytes = [0xFF#8, 0x00#8, 0xFF#8]) ∨
      (i = .dccPktStopall ∧ bytes = [0x00#8, 0x70#8, 0x70#8]) →
      ∃ b, (frame bytes s.params.preambleLen)[s.pos]? = some b ∧
        (s.pos < s.params.preambleLen + 27 →
          exec i s = .next { s with tx := s.tx ++ [b], pos := s.pos + 1 }) ∧
        (s.pos = s.params.preambleLen + 27 → b = true ∧
          exec i s = .next { s with tx := s.tx ++ [b], busy := false, rsp := some .ok })

/-- The thirteen rows of the output language when the transport does not accept (45_framer.md R104,
60_exceptions.md R130): a fault drops the frame, a stall changes nothing, and with no frame in flight the
transport is ignored. -/
def Obligations.OutputRowsStallAbortAndIdle : Prop :=
  ∀ (i : Instr) (s : State), i.isCommand = false →
    (s.busy = true → s.ports.txFault = true →
      exec i s = .next { s with busy := false, rsp := some .transportError }) ∧
    (s.busy = true → s.ports.txFault = false → s.ports.txReady = false → exec i s = .next s) ∧
    (s.busy = false → exec i s = .next s)

/-- A step of the sequencer runs the packet byte it is sending (45_framer.md R103, R105; log 9): when the frame
in flight stands in byte `k` and `BUF[k]` holds the bits of the row `i`, the step is the row's meaning. -/
def Obligations.StepSendsThePacketByteInFlight : Prop :=
  ∀ (s : State) (i : Instr) (b : Byte) (k : Nat), s.nextPorts.rst = false → s.busy = true →
    encode i = .packetByte b → k < s.nb.toNat → s.buf.get? k = some b →
    s.params.preambleLen + 9 * k ≤ s.pos → s.pos < s.params.preambleLen + 9 * k + 9 →
    step s = exec i s.sample

/-- The same for a literal packet (log 9): when the frame in flight is the row's packet, the step is the row's
meaning, at every position of the frame. -/
def Obligations.StepSendsTheLiteralPacketInFlight : Prop :=
  ∀ (s : State) (i : Instr) (b0 b1 b2 : Byte), s.nextPorts.rst = false → s.busy = true →
    encode i = .packet (b0 ++ b1 ++ b2) → s.nb = 3#3 → s.packet = [b0, b1, b2] →
    s.pos ≤ s.params.preambleLen + 27 →
    step s = exec i s.sample

/-! ## The step -/

/-- A step runs the decoded instruction (45_framer.md R101): the idle block, not in reset, with a legal word
presented, executes it on the state in which the input ports are sampled; and sampling changes the model's own
fields (log 1, log 4) and the response port (log 5) only. -/
def Obligations.StepRunsThePresentedCommand : Prop :=
  ∀ (s : State) (i : Instr), s.nextPorts.rst = false → s.busy = false → s.nextPorts.cmdValid = true →
    decodeCommand s.nextPorts.cmd = .ok i →
    step s = exec i s.sample ∧
    s.sample =
      { s with ports := s.nextPorts, inputs := s.inputs.tail, tick := s.tick + 1, rsp := none }

/-- 70_reset_and_hazards.md R140, R141: a step with `rst = 1`, at any point of any frame: the context and
`BUSY` at their reset values, nothing emitted, no response. Nothing is said of `BUF`, `NB`, `POS`. -/
def Obligations.ResetStepClearsTheContextAndCutsTheFrame : Prop :=
  ∀ s : State, s.nextPorts.rst = true →
    ∃ t, step s = .next t ∧ t.fn = 0#13 ∧ t.laddr = 0#7 ∧ t.mode = 0#2 ∧ t.busy = false ∧
      t.tx = s.tx ∧ t.rsp = none ∧ t.params = s.params

/-- 45_framer.md R104, 60_exceptions.md R130: with no reset, no frame in flight and no word presented, a step
changes no register and emits nothing, whatever the transport drives. -/
def Obligations.IdleStepDoesNothing : Prop :=
  ∀ s : State, s.nextPorts.rst = false → s.busy = false → s.nextPorts.cmdValid = false →
    step s = .next s.sample

/-- 45_framer.md R105: the `Emit` step, at every position of a frame in flight. -/
def Obligations.EmitStepSendsTheBitAtPos : Prop :=
  ∀ s : State, s.nextPorts.rst = false → s.busy = true → s.nb.toNat ≤ 4 →
    s.pos ≤ s.params.preambleLen + 9 * s.nb.toNat →
    s.nextPorts.txFault = false → s.nextPorts.txReady = true →
    ∃ b, bitAt s.params.preambleLen s.buf s.nb.toNat s.pos = some b ∧
      (s.pos = s.params.preambleLen + 9 * s.nb.toNat →
        step s = .next { s.sample with tx := s.tx ++ [b], busy := false, rsp := some .ok }) ∧
      (s.pos ≠ s.params.preambleLen + 9 * s.nb.toNat →
        step s = .next { s.sample with tx := s.tx ++ [b], pos := s.pos + 1 })

/-- 60_exceptions.md R130: the `Abort` step, whatever `tx_ready` is: the offered bit is not emitted, writes
are kept. On the idle block `tx_fault` leaves no trace but in the record of the input ports. -/
def Obligations.TransportFaultDropsTheFrame : Prop :=
  (∀ s : State, s.nextPorts.rst = false → s.busy = true → s.nextPorts.txFault = true →
    step s = .next { s.sample with busy := false, rsp := some .transportError }) ∧
  (∀ (s t : State) (p : Ports) (rest : List Ports) (fault : Bool), s.busy = false → s.inputs = p :: rest →
    step s = .next t →
    step { s with inputs := { p with txFault := fault } :: rest } =
      .next { t with ports := { p with txFault := fault } })

/-- 45_framer.md R110: while the transport only stalls, the block stays busy, offers the same bit, emits
nothing, answers nothing and accepts nothing, however many steps pass and whatever is presented. -/
def Obligations.StallingTransportHoldsTheBlock : Prop :=
  ∀ (stalls rest : List Ports) (s : State), s.busy = true → s.inputs = stalls ++ rest →
    (∀ p ∈ stalls, p.rst = false ∧ p.txFault = false ∧ p.txReady = false) →
    ∃ t : State, Host.Core.run Sys2Proof.core stalls.length s = .next t ∧
      t.busy = true ∧ t.offeredBit = s.offeredBit ∧ t.tx = s.tx ∧ t.inputs = rest ∧
      (stalls ≠ [] → t.rsp = none) ∧ t.fn = s.fn ∧ t.laddr = s.laddr ∧ t.mode = s.mode ∧
      t.buf = s.buf ∧ t.nb = s.nb ∧ t.pos = s.pos

/-- 45_framer.md R106: agreement of the two views, for every interleaving of stalls. From a frame just started,
as long as the transport does not fault and reset stays low: after `m` accepted bits, `m` not above the
position of the stop bit, exactly the first `m` bits of `Frame` have gone to `TX` and a fault then ends the
frame with `TransportError`; with the last accept the whole `Frame` has gone out, the block is idle and the
response is `OK`. The loco context is untouched. -/
def Obligations.SequencerSendsExactlyTheFrame : Prop :=
  ∀ (s : State) (ps rest : List Ports), s.busy = true → s.pos = 0 → s.nb = 3#3 ∨ s.nb = 4#3 →
    s.inputs = ps ++ rest → (∀ p ∈ ps, p.rst = false ∧ p.txFault = false) →
    let F := frame s.packet s.params.preambleLen
    let last := s.params.preambleLen + 9 * s.nb.toNat
    let accepted := ps.countP fun p => p.txReady
    (accepted ≤ last →
      ∃ t : State, Host.Core.run Sys2Proof.core ps.length s = .next t ∧
        t.tx = s.tx ++ F.take accepted ∧ t.busy = true ∧ t.pos = accepted ∧ t.inputs = rest ∧
        t.packet = s.packet ∧ t.fn = s.fn ∧ t.laddr = s.laddr ∧ t.mode = s.mode ∧
        (t.nextPorts.rst = false → t.nextPorts.txFault = true →
          ∃ u, step t = .next u ∧ u.tx = s.tx ++ F.take accepted ∧ u.busy = false ∧
            u.rsp = some .transportError ∧ u.fn = s.fn ∧ u.laddr = s.laddr ∧ u.mode = s.mode)) ∧
    (accepted = last + 1 → (ps.getLast?.map fun p => p.txReady) = some true →
      ∃ t : State, Host.Core.run Sys2Proof.core ps.length s = .next t ∧
        t.tx = s.tx ++ F ∧ t.busy = false ∧ t.rsp = some .ok ∧ t.inputs = rest ∧
        t.fn = s.fn ∧ t.laddr = s.laddr ∧ t.mode = s.mode)

/-! ## Rules of the whole machine -/

/-- 10_state.md R21, R15 and 00_scope.md R5: the invariants hold after every step that starts from them. -/
def Obligations.EveryStepKeepsTheInvariants : Prop :=
  ∀ s t : State, Inv s → step s = .next t → Inv t

/-- The invariants hold right after reset (10_state.md R21, R22). `POS` at reset is the model's choice
(log 3). -/
def Obligations.ResetMeetsTheInvariants : Prop := Inv State.reset ∧ PacketInFlightLegal State.reset

/-- 30_encoding.md R49: only the seven packet shapes are ever in flight; every step keeps it so. -/
def Obligations.EveryStepKeepsPacketsLegal : Prop :=
  ∀ s t : State, PacketInFlightLegal s → step s = .next t → PacketInFlightLegal t

/-- Nothing ordinary stops the machine: from every state with the invariants a step answers a next state,
whatever the host and the transport drive (30_encoding.md R48 "The decode is total", 60_exceptions.md R131).
The switch of U7 is at its default (log 14). -/
def Obligations.NoStepStopsFromTheInvariants : Prop :=
  ∀ s : State, Inv s → s.params.mode14 = .likeMode28 → SafeStep s

/-- 10_state.md R22, 70_reset_and_hazards.md R142: the state right after reset: idle, no loco constructed, all
functions off, nothing pending. -/
def Obligations.ResetStateIsIdleWithNoLoco : Prop :=
  State.reset.fn = 0#13 ∧ State.reset.laddr = 0#7 ∧ State.reset.mode = 0#2 ∧ State.reset.busy = false ∧
    State.reset.cmdReady = true ∧ State.reset.txValid = false ∧ State.reset.rspValid = false

/-- 60_exceptions.md R127: a step that answers one of the synchronous errors changes no register, starts no
frame and emits no bit; the block is at once ready. -/
def Obligations.RefusedCommandChangesNothing : Prop :=
  ∀ (s t : State) (e : Response), step s = .next t → t.rsp = some e →
    e = .invalidAddress ∨ e = .invalidSpeed ∨ e = .functionNotAvailable ∨ e = .invalidSubState ∨
      e = .illegalCommand →
    t = { s.sample with rsp := some e } ∧ t.busy = false ∧ t.cmdReady = true

/-- 60_exceptions.md R122, R123, R124, R125, R126, R128: on an accepted word each synchronous error is answered
exactly under its causes, the first in the order illegal word, address, operand. The conditions on the operands
exclude each other, so exactly one is reported. -/
def Obligations.ErrorsAreAnsweredExactlyUnderTheirCauses : Prop :=
  ∀ s t : State, s.nextPorts.rst = false → s.busy = false → s.nextPorts.cmdValid = true →
    step s = .next t →
    let d := decodeCommand s.nextPorts.cmd
    (t.rsp = some .illegalCommand ↔ ∃ e, d = .error e) ∧
    (t.rsp = some .invalidAddress ↔
      (∃ mode addr, d = .ok (.linit mode addr) ∧ (addr.toNat = 0 ∨ 128 ≤ addr.toNat)) ∨
      (∃ dir speed, d = .ok (.spd dir speed) ∧ s.laddr = 0#7) ∨
      (∃ idx on, d = .ok (.fn idx on) ∧ s.laddr = 0#7) ∨
      (∃ sub active addr, d = .ok (.acc sub active addr) ∧ (addr.toNat = 0 ∨ 512 ≤ addr.toNat))) ∧
    (t.rsp = some .invalidSpeed ↔
      ∃ dir speed, d = .ok (.spd dir speed) ∧ s.laddr ≠ 0#7 ∧
        ((s.mode = 2#2 ∧ (speed.toInt < -1 ∨ 126 < speed.toInt)) ∨
          (s.mode ≠ 2#2 ∧ (speed.toInt < -3 ∨ 28 < speed.toInt)))) ∧
    (t.rsp = some .functionNotAvailable ↔
      ∃ idx on, d = .ok (.fn idx on) ∧ s.laddr ≠ 0#7 ∧ 13 ≤ idx.toNat) ∧
    (t.rsp = some .invalidSubState ↔
      ∃ sub active addr, d = .ok (.acc sub active addr) ∧ 1 ≤ addr.toNat ∧ addr.toNat ≤ 511 ∧ 8 ≤ sub.toNat)

/-- 60_exceptions.md R129: the block never drives response code 4. -/
def Obligations.ResponseCodeFourIsNeverDriven : Prop :=
  ∀ s t : State, step s = .next t → t.rspValid = true → t.rspCode ≠ 4#3

/-- 60_exceptions.md R121 as a balance: with reset low, a command accepted or in flight before a step is after
it either answered or in flight, and no response comes without its command. -/
def Obligations.EveryAcceptedCommandIsAnsweredOnce : Prop :=
  ∀ s t : State, s.nextPorts.rst = false → step s = .next t →
    (s.cmdReady && s.nextPorts.cmdValid).toNat + s.busy.toNat = t.busy.toNat + t.rspValid.toNat

/-- 70_reset_and_hazards.md R146: while a frame is in flight, what stands on the command port makes no
difference. -/
def Obligations.CommandPortIsIgnoredWhileBusy : Prop :=
  ∀ (s t : State) (p : Ports) (rest : List Ports) (valid : Bool) (w : CommandWord), s.busy = true →
    s.inputs = p :: rest → step s = .next t →
    step { s with inputs := { p with cmdValid := valid, cmd := w } :: rest } =
      .next { t with ports := { p with cmdValid := valid, cmd := w } }

/-- 42_function.md R86, 10_state.md R10: only an accepted `FN`, one bit of it, an accepted `LINIT`, or reset
changes a function bit. -/
def Obligations.OnlyFnLinitAndResetWriteFunctionBits : Prop :=
  ∀ (s t : State) (j : Nat), step s = .next t → t.fn.getLsbD j ≠ s.fn.getLsbD j →
    s.nextPorts.rst = true ∨
    (s.busy = false ∧ s.nextPorts.cmdValid = true ∧
      ((∃ mode addr, decodeCommand s.nextPorts.cmd = .ok (.linit mode addr)) ∨
        ∃ idx on, decodeCommand s.nextPorts.cmd = .ok (.fn idx on) ∧ j = idx.toNat ∧ t.fn.getLsbD j = on))

/-- 10_state.md R11, R12, 70_reset_and_hazards.md R148: only a successful `LINIT` or reset changes `LADDR` or
`MODE`, and a `LINIT` that does also clears every function bit and sends nothing. -/
def Obligations.OnlyLinitAndResetWriteAddressAndMode : Prop :=
  ∀ s t : State, step s = .next t → t.laddr ≠ s.laddr ∨ t.mode ≠ s.mode →
    s.nextPorts.rst = true ∨
    ∃ mode addr, decodeCommand s.nextPorts.cmd = .ok (.linit mode addr) ∧ s.busy = false ∧
      s.nextPorts.cmdValid = true ∧ t.laddr = addr.extractLsb' 0 7 ∧ t.mode = mode ∧ t.fn = 0#13 ∧
      t.rsp = some .ok ∧ t.busy = false ∧ t.tx = s.tx

/-- 20_memory.md R35 (b), (f), 45_framer.md R107: the output stream grows by the offered bit in a step where the
transport takes it, and in no other step. -/
def Obligations.OutputGrowsOnlyByTheTakenBit : Prop :=
  ∀ s t : State, step s = .next t →
    (t.tx = s.tx ∧
      ¬(s.txValid = true ∧ s.nextPorts.txReady = true ∧ s.nextPorts.txFault = false ∧
        s.nextPorts.rst = false)) ∨
    (s.txValid = true ∧ s.nextPorts.txReady = true ∧ s.nextPorts.txFault = false ∧
      s.nextPorts.rst = false ∧ t.tx = s.tx ++ [s.txBit])

/-- 10_state.md R17: while a frame stays in flight, `POS` advances by exactly one per emitted bit and never
jumps. -/
def Obligations.PositionAdvancesByOnePerEmittedBit : Prop :=
  ∀ s t : State, s.busy = true → t.busy = true → step s = .next t →
    t.pos + s.tx.length = s.pos + t.tx.length ∧ (t.pos = s.pos ∨ t.pos = s.pos + 1) ∧ t.packet = s.packet

/-- 00_scope.md R5: the parameters are static. That they stand in the state at all is the model's choice
(log 2). -/
def Obligations.NoStepChangesTheParameters : Prop :=
  ∀ s t : State, step s = .next t → t.params = s.params

/-- 60_exceptions.md R120: the numbers of the response codes, and `rsp_code` shows them. -/
def Obligations.ResponseCodesAreNumberedAsInTheTable : Prop :=
  Response.ok.code = 0#3 ∧ Response.invalidAddress.code = 1#3 ∧ Response.invalidSpeed.code = 2#3 ∧
    Response.functionNotAvailable.code = 3#3 ∧ Response.stateNotAvailable.code = 4#3 ∧
    Response.transportError.code = 5#3 ∧ Response.invalidSubState.code = 6#3 ∧
    Response.illegalCommand.code = 7#3 ∧
    ∀ (s : State) (r : Response), s.rsp = some r → s.rspValid = true ∧ s.rspCode = r.code
end

