-- ==== Sys2Proof/Laws/State.lean ====
section
/-! SUPPORT. One lemma per field per state update, so that no proof unfolds a record update. -/

namespace Sys2Proof.Machine

/-! ## `State.respond` -/

@[simp] theorem respond_fn (s : State) (r : Response) : (s.respond r).fn = s.fn := rfl
@[simp] theorem respond_laddr (s : State) (r : Response) : (s.respond r).laddr = s.laddr := rfl
@[simp] theorem respond_mode (s : State) (r : Response) : (s.respond r).mode = s.mode := rfl
@[simp] theorem respond_busy (s : State) (r : Response) : (s.respond r).busy = s.busy := rfl
@[simp] theorem respond_buf (s : State) (r : Response) : (s.respond r).buf = s.buf := rfl
@[simp] theorem respond_nb (s : State) (r : Response) : (s.respond r).nb = s.nb := rfl
@[simp] theorem respond_pos (s : State) (r : Response) : (s.respond r).pos = s.pos := rfl
@[simp] theorem respond_tx (s : State) (r : Response) : (s.respond r).tx = s.tx := rfl
@[simp] theorem respond_rsp (s : State) (r : Response) : (s.respond r).rsp = some r := rfl
@[simp] theorem respond_params (s : State) (r : Response) : (s.respond r).params = s.params := rfl
@[simp] theorem respond_ports (s : State) (r : Response) : (s.respond r).ports = s.ports := rfl
@[simp] theorem respond_inputs (s : State) (r : Response) : (s.respond r).inputs = s.inputs := rfl
@[simp] theorem respond_tick (s : State) (r : Response) : (s.respond r).tick = s.tick := rfl

/-! ## `State.construct` -/

@[simp] theorem construct_fn (s : State) (mode : BitVec 2) (addr : BitVec 16) : (s.construct mode addr).fn = 0#13 := rfl
@[simp] theorem construct_laddr (s : State) (mode : BitVec 2) (addr : BitVec 16) : (s.construct mode addr).laddr = addr.setWidth 7 := rfl
@[simp] theorem construct_mode (s : State) (mode : BitVec 2) (addr : BitVec 16) : (s.construct mode addr).mode = mode := rfl
@[simp] theorem construct_busy (s : State) (mode : BitVec 2) (addr : BitVec 16) : (s.construct mode addr).busy = s.busy := rfl
@[simp] theorem construct_buf (s : State) (mode : BitVec 2) (addr : BitVec 16) : (s.construct mode addr).buf = s.buf := rfl
@[simp] theorem construct_nb (s : State) (mode : BitVec 2) (addr : BitVec 16) : (s.construct mode addr).nb = s.nb := rfl
@[simp] theorem construct_pos (s : State) (mode : BitVec 2) (addr : BitVec 16) : (s.construct mode addr).pos = s.pos := rfl
@[simp] theorem construct_tx (s : State) (mode : BitVec 2) (addr : BitVec 16) : (s.construct mode addr).tx = s.tx := rfl
@[simp] theorem construct_rsp (s : State) (mode : BitVec 2) (addr : BitVec 16) : (s.construct mode addr).rsp = s.rsp := rfl
@[simp] theorem construct_params (s : State) (mode : BitVec 2) (addr : BitVec 16) : (s.construct mode addr).params = s.params := rfl
@[simp] theorem construct_ports (s : State) (mode : BitVec 2) (addr : BitVec 16) : (s.construct mode addr).ports = s.ports := rfl
@[simp] theorem construct_inputs (s : State) (mode : BitVec 2) (addr : BitVec 16) : (s.construct mode addr).inputs = s.inputs := rfl
@[simp] theorem construct_tick (s : State) (mode : BitVec 2) (addr : BitVec 16) : (s.construct mode addr).tick = s.tick := rfl

/-! ## `State.writeFn` -/

@[simp] theorem writeFn_fn (s : State) (i : Nat) (on : Bool) : (s.writeFn i on).fn = setFnBit s.fn i on := rfl
@[simp] theorem writeFn_laddr (s : State) (i : Nat) (on : Bool) : (s.writeFn i on).laddr = s.laddr := rfl
@[simp] theorem writeFn_mode (s : State) (i : Nat) (on : Bool) : (s.writeFn i on).mode = s.mode := rfl
@[simp] theorem writeFn_busy (s : State) (i : Nat) (on : Bool) : (s.writeFn i on).busy = s.busy := rfl
@[simp] theorem writeFn_buf (s : State) (i : Nat) (on : Bool) : (s.writeFn i on).buf = s.buf := rfl
@[simp] theorem writeFn_nb (s : State) (i : Nat) (on : Bool) : (s.writeFn i on).nb = s.nb := rfl
@[simp] theorem writeFn_pos (s : State) (i : Nat) (on : Bool) : (s.writeFn i on).pos = s.pos := rfl
@[simp] theorem writeFn_tx (s : State) (i : Nat) (on : Bool) : (s.writeFn i on).tx = s.tx := rfl
@[simp] theorem writeFn_rsp (s : State) (i : Nat) (on : Bool) : (s.writeFn i on).rsp = s.rsp := rfl
@[simp] theorem writeFn_params (s : State) (i : Nat) (on : Bool) : (s.writeFn i on).params = s.params := rfl
@[simp] theorem writeFn_ports (s : State) (i : Nat) (on : Bool) : (s.writeFn i on).ports = s.ports := rfl
@[simp] theorem writeFn_inputs (s : State) (i : Nat) (on : Bool) : (s.writeFn i on).inputs = s.inputs := rfl
@[simp] theorem writeFn_tick (s : State) (i : Nat) (on : Bool) : (s.writeFn i on).tick = s.tick := rfl

/-! ## `State.startFrame` -/

@[simp] theorem startFrame_fn (s : State) (bytes : List Byte) : (s.startFrame bytes).fn = s.fn := rfl
@[simp] theorem startFrame_laddr (s : State) (bytes : List Byte) : (s.startFrame bytes).laddr = s.laddr := rfl
@[simp] theorem startFrame_mode (s : State) (bytes : List Byte) : (s.startFrame bytes).mode = s.mode := rfl
@[simp] theorem startFrame_busy (s : State) (bytes : List Byte) : (s.startFrame bytes).busy = true := rfl
@[simp] theorem startFrame_buf (s : State) (bytes : List Byte) : (s.startFrame bytes).buf = s.buf.load 0 bytes := rfl
@[simp] theorem startFrame_nb (s : State) (bytes : List Byte) : (s.startFrame bytes).nb = BitVec.ofNat 3 bytes.length := rfl
@[simp] theorem startFrame_pos (s : State) (bytes : List Byte) : (s.startFrame bytes).pos = 0 := rfl
@[simp] theorem startFrame_tx (s : State) (bytes : List Byte) : (s.startFrame bytes).tx = s.tx := rfl
@[simp] theorem startFrame_rsp (s : State) (bytes : List Byte) : (s.startFrame bytes).rsp = s.rsp := rfl
@[simp] theorem startFrame_params (s : State) (bytes : List Byte) : (s.startFrame bytes).params = s.params := rfl
@[simp] theorem startFrame_ports (s : State) (bytes : List Byte) : (s.startFrame bytes).ports = s.ports := rfl
@[simp] theorem startFrame_inputs (s : State) (bytes : List Byte) : (s.startFrame bytes).inputs = s.inputs := rfl
@[simp] theorem startFrame_tick (s : State) (bytes : List Byte) : (s.startFrame bytes).tick = s.tick := rfl

/-! ## `State.emit` -/

@[simp] theorem emit_fn (s : State) (b : Bool) : (s.emit b).fn = s.fn := rfl
@[simp] theorem emit_laddr (s : State) (b : Bool) : (s.emit b).laddr = s.laddr := rfl
@[simp] theorem emit_mode (s : State) (b : Bool) : (s.emit b).mode = s.mode := rfl
@[simp] theorem emit_busy (s : State) (b : Bool) : (s.emit b).busy = s.busy := rfl
@[simp] theorem emit_buf (s : State) (b : Bool) : (s.emit b).buf = s.buf := rfl
@[simp] theorem emit_nb (s : State) (b : Bool) : (s.emit b).nb = s.nb := rfl
@[simp] theorem emit_pos (s : State) (b : Bool) : (s.emit b).pos = s.pos := rfl
@[simp] theorem emit_tx (s : State) (b : Bool) : (s.emit b).tx = s.tx ++ [b] := rfl
@[simp] theorem emit_rsp (s : State) (b : Bool) : (s.emit b).rsp = s.rsp := rfl
@[simp] theorem emit_params (s : State) (b : Bool) : (s.emit b).params = s.params := rfl
@[simp] theorem emit_ports (s : State) (b : Bool) : (s.emit b).ports = s.ports := rfl
@[simp] theorem emit_inputs (s : State) (b : Bool) : (s.emit b).inputs = s.inputs := rfl
@[simp] theorem emit_tick (s : State) (b : Bool) : (s.emit b).tick = s.tick := rfl

/-! ## `State.advance` -/

@[simp] theorem advance_fn (s : State) : (s.advance).fn = s.fn := rfl
@[simp] theorem advance_laddr (s : State) : (s.advance).laddr = s.laddr := rfl
@[simp] theorem advance_mode (s : State) : (s.advance).mode = s.mode := rfl
@[simp] theorem advance_busy (s : State) : (s.advance).busy = s.busy := rfl
@[simp] theorem advance_buf (s : State) : (s.advance).buf = s.buf := rfl
@[simp] theorem advance_nb (s : State) : (s.advance).nb = s.nb := rfl
@[simp] theorem advance_pos (s : State) : (s.advance).pos = s.pos + 1 := rfl
@[simp] theorem advance_tx (s : State) : (s.advance).tx = s.tx := rfl
@[simp] theorem advance_rsp (s : State) : (s.advance).rsp = s.rsp := rfl
@[simp] theorem advance_params (s : State) : (s.advance).params = s.params := rfl
@[simp] theorem advance_ports (s : State) : (s.advance).ports = s.ports := rfl
@[simp] theorem advance_inputs (s : State) : (s.advance).inputs = s.inputs := rfl
@[simp] theorem advance_tick (s : State) : (s.advance).tick = s.tick := rfl

/-! ## `State.finish` -/

@[simp] theorem finish_fn (s : State) : (s.finish).fn = s.fn := rfl
@[simp] theorem finish_laddr (s : State) : (s.finish).laddr = s.laddr := rfl
@[simp] theorem finish_mode (s : State) : (s.finish).mode = s.mode := rfl
@[simp] theorem finish_busy (s : State) : (s.finish).busy = false := rfl
@[simp] theorem finish_buf (s : State) : (s.finish).buf = s.buf := rfl
@[simp] theorem finish_nb (s : State) : (s.finish).nb = s.nb := rfl
@[simp] theorem finish_pos (s : State) : (s.finish).pos = s.pos := rfl
@[simp] theorem finish_tx (s : State) : (s.finish).tx = s.tx := rfl
@[simp] theorem finish_rsp (s : State) : (s.finish).rsp = some .ok := rfl
@[simp] theorem finish_params (s : State) : (s.finish).params = s.params := rfl
@[simp] theorem finish_ports (s : State) : (s.finish).ports = s.ports := rfl
@[simp] theorem finish_inputs (s : State) : (s.finish).inputs = s.inputs := rfl
@[simp] theorem finish_tick (s : State) : (s.finish).tick = s.tick := rfl

/-! ## `State.abort` -/

@[simp] theorem abort_fn (s : State) : (s.abort).fn = s.fn := rfl
@[simp] theorem abort_laddr (s : State) : (s.abort).laddr = s.laddr := rfl
@[simp] theorem abort_mode (s : State) : (s.abort).mode = s.mode := rfl
@[simp] theorem abort_busy (s : State) : (s.abort).busy = false := rfl
@[simp] theorem abort_buf (s : State) : (s.abort).buf = s.buf := rfl
@[simp] theorem abort_nb (s : State) : (s.abort).nb = s.nb := rfl
@[simp] theorem abort_pos (s : State) : (s.abort).pos = s.pos := rfl
@[simp] theorem abort_tx (s : State) : (s.abort).tx = s.tx := rfl
@[simp] theorem abort_rsp (s : State) : (s.abort).rsp = some .transportError := rfl
@[simp] theorem abort_params (s : State) : (s.abort).params = s.params := rfl
@[simp] theorem abort_ports (s : State) : (s.abort).ports = s.ports := rfl
@[simp] theorem abort_inputs (s : State) : (s.abort).inputs = s.inputs := rfl
@[simp] theorem abort_tick (s : State) : (s.abort).tick = s.tick := rfl

/-! ## `State.applyReset` -/

@[simp] theorem applyReset_fn (s : State) : (s.applyReset).fn = 0#13 := rfl
@[simp] theorem applyReset_laddr (s : State) : (s.applyReset).laddr = 0#7 := rfl
@[simp] theorem applyReset_mode (s : State) : (s.applyReset).mode = 0#2 := rfl
@[simp] theorem applyReset_busy (s : State) : (s.applyReset).busy = false := rfl
@[simp] theorem applyReset_nb (s : State) : (s.applyReset).nb = Config.unspecifiedNb s.tick := rfl
@[simp] theorem applyReset_pos (s : State) : (s.applyReset).pos = Config.unspecifiedPos s.tick % 2 ^ posWidth s.params.preambleLen := rfl
@[simp] theorem applyReset_tx (s : State) : (s.applyReset).tx = s.tx := rfl
@[simp] theorem applyReset_rsp (s : State) : (s.applyReset).rsp = none := rfl
@[simp] theorem applyReset_params (s : State) : (s.applyReset).params = s.params := rfl
@[simp] theorem applyReset_ports (s : State) : (s.applyReset).ports = s.ports := rfl
@[simp] theorem applyReset_inputs (s : State) : (s.applyReset).inputs = s.inputs := rfl
@[simp] theorem applyReset_tick (s : State) : (s.applyReset).tick = s.tick := rfl

/-! ## `State.sample` -/

@[simp] theorem sample_fn (s : State) : (s.sample).fn = s.fn := rfl
@[simp] theorem sample_laddr (s : State) : (s.sample).laddr = s.laddr := rfl
@[simp] theorem sample_mode (s : State) : (s.sample).mode = s.mode := rfl
@[simp] theorem sample_busy (s : State) : (s.sample).busy = s.busy := rfl
@[simp] theorem sample_buf (s : State) : (s.sample).buf = s.buf := rfl
@[simp] theorem sample_nb (s : State) : (s.sample).nb = s.nb := rfl
@[simp] theorem sample_pos (s : State) : (s.sample).pos = s.pos := rfl
@[simp] theorem sample_tx (s : State) : (s.sample).tx = s.tx := rfl
@[simp] theorem sample_rsp (s : State) : (s.sample).rsp = none := rfl
@[simp] theorem sample_params (s : State) : (s.sample).params = s.params := rfl
@[simp] theorem sample_ports (s : State) : (s.sample).ports = s.nextPorts := rfl
@[simp] theorem sample_inputs (s : State) : (s.sample).inputs = s.inputs.tail := rfl
@[simp] theorem sample_tick (s : State) : (s.sample).tick = s.tick + 1 := rfl

end Sys2Proof.Machine
end

