-- ==== Sys2Proof/Laws/Ops.lean ====
section
/-! SUPPORT. For each shared operation one lemma that says what it can do, for callers to cite. -/

namespace Sys2Proof.Machine

/-! ## Bits and bytes -/

theorem byteOfBits_getLsbD (b7 b6 b5 b4 b3 b2 b1 b0 : Bool) :
    let b := byteOfBits b7 b6 b5 b4 b3 b2 b1 b0
    b.getLsbD 0 = b0 ∧ b.getLsbD 1 = b1 ∧ b.getLsbD 2 = b2 ∧ b.getLsbD 3 = b3 ∧
      b.getLsbD 4 = b4 ∧ b.getLsbD 5 = b5 ∧ b.getLsbD 6 = b6 ∧ b.getLsbD 7 = b7 := by
  revert b7 b6 b5 b4 b3 b2 b1 b0
  decide

/-- Two bytes with the same eight bits are equal. -/
theorem byte_ext {x y : Byte} (h0 : x.getLsbD 0 = y.getLsbD 0) (h1 : x.getLsbD 1 = y.getLsbD 1)
    (h2 : x.getLsbD 2 = y.getLsbD 2) (h3 : x.getLsbD 3 = y.getLsbD 3) (h4 : x.getLsbD 4 = y.getLsbD 4)
    (h5 : x.getLsbD 5 = y.getLsbD 5) (h6 : x.getLsbD 6 = y.getLsbD 6) (h7 : x.getLsbD 7 = y.getLsbD 7) :
    x = y := by
  apply BitVec.eq_of_getLsbD_eq
  intro i hi
  match i, hi with
  | 0, _ => exact h0
  | 1, _ => exact h1
  | 2, _ => exact h2
  | 3, _ => exact h3
  | 4, _ => exact h4
  | 5, _ => exact h5
  | 6, _ => exact h6
  | 7, _ => exact h7

/-- The checksum is appended: the whole packet folds to zero (44_checksum.md R97). -/
theorem xorBytes_append_self (data : List Byte) : xorBytes (data ++ [xorBytes data]) = 0#8 := by
  simp [xorBytes, List.foldl_append]

/-! ## The packet buffer -/

theorem load_three (buf : PacketBuffer) (x y z : Byte) :
    buf.load 0 [x, y, z] = { b0 := x, b1 := y, b2 := z, b3 := buf.b3 } := rfl

theorem load_four (buf : PacketBuffer) (x y z u : Byte) :
    buf.load 0 [x, y, z, u] = { b0 := x, b1 := y, b2 := z, b3 := u } := rfl

theorem startFrame_packet_three (s : State) (x y z : Byte) :
    (s.startFrame [x, y, z]).packet = [x, y, z] := rfl

theorem startFrame_packet_four (s : State) (x y z u : Byte) :
    (s.startFrame [x, y, z, u]).packet = [x, y, z, u] := rfl

/-! ## Accepting and refusing -/

theorem whenReady_ready {s : State} (h : s.busy = false) (k : Result) : s.whenReady k = k := by
  simp [State.whenReady, h]

theorem whenReady_busy {s : State} (h : s.busy = true) (k : Result) : s.whenReady k = .next s := by
  simp [State.whenReady, h]

theorem raise_next {r : Response} {s t : State} (h : raise r s = .next t) : t = s.respond r := by
  simpa [raise] using h.symm

theorem sendPacket_next {data : List Byte} {s t : State} (h : sendPacket data s = .next t) :
    t = s.startFrame (data ++ [xorBytes data]) := by
  simpa [sendPacket] using h.symm

/-! ## The sequencer -/

theorem offerBit_idle {s : State} (h : s.busy = false) (n : Nat) (bit : Option Bool) :
    offerBit n bit s = .next s := by
  simp [offerBit, h]

theorem offerBit_fault {s : State} (h : s.busy = true) (hc : transportChoice s.ports = .fault) (n : Nat)
    (bit : Option Bool) : offerBit n bit s = .next s.abort := by
  simp [offerBit, h, hc]

theorem offerBit_stall {s : State} (h : s.busy = true) (hc : transportChoice s.ports = .stall) (n : Nat)
    (bit : Option Bool) : offerBit n bit s = .next s := by
  simp [offerBit, h, hc]

theorem offerBit_accept {s : State} (h : s.busy = true) (hc : transportChoice s.ports = .accept) (n : Nat)
    (b : Bool) : offerBit n (some b) s = .next (s.emitStep n b) := by
  simp [offerBit, h, hc]

/-- Everything a sequencer step can do. -/
theorem offerBit_next {n : Nat} {bit : Option Bool} {s t : State} (h : offerBit n bit s = .next t) :
    (s.busy = false ∧ t = s) ∨
    (s.busy = true ∧ transportChoice s.ports = .fault ∧ t = s.abort) ∨
    (s.busy = true ∧ transportChoice s.ports = .stall ∧ t = s) ∨
    (s.busy = true ∧ transportChoice s.ports = .accept ∧ ∃ b, bit = some b ∧ t = s.emitStep n b) := by
  cases hb : s.busy with
  | false =>
    rw [offerBit_idle hb] at h
    exact .inl ⟨rfl, by simpa using h.symm⟩
  | true =>
    cases hc : transportChoice s.ports with
    | fault => rw [offerBit_fault hb hc] at h; exact .inr (.inl ⟨rfl, rfl, by simpa using h.symm⟩)
    | stall => rw [offerBit_stall hb hc] at h; exact .inr (.inr (.inl ⟨rfl, rfl, by simpa using h.symm⟩))
    | accept =>
      cases bit with
      | none => simp [offerBit, hb, hc] at h
      | some b =>
        rw [offerBit_accept hb hc] at h
        exact .inr (.inr (.inr ⟨rfl, rfl, b, rfl, by simpa using h.symm⟩))

theorem emitStep_last {s : State} {n : Nat} (h : s.pos = s.params.preambleLen + 9 * n) (b : Bool) :
    s.emitStep n b = (s.emit b).finish := by
  simp [State.emitStep, h]

theorem emitStep_inner {s : State} {n : Nat} (h : s.pos ≠ s.params.preambleLen + 9 * n) (b : Bool) :
    s.emitStep n b = (s.emit b).advance := by
  simp [State.emitStep, h]

/-! ## The step -/

/-- Everything a step can do, by the input ports it samples. -/
theorem step_next {s t : State} (h : step s = .next t) :
    (s.nextPorts.rst = true ∧ t = s.sample.applyReset) ∨
    (s.nextPorts.rst = false ∧ s.busy = true ∧ sequenceFrame s.sample = .next t) ∨
    (s.nextPorts.rst = false ∧ s.busy = false ∧ s.nextPorts.cmdValid = true ∧
      ∃ i, decodeCommand s.nextPorts.cmd = .ok i ∧ exec i s.sample = .next t) ∨
    (s.nextPorts.rst = false ∧ s.busy = false ∧ s.nextPorts.cmdValid = true ∧
      (∃ e, decodeCommand s.nextPorts.cmd = .error e) ∧ t = s.sample.respond .illegalCommand) ∨
    (s.nextPorts.rst = false ∧ s.busy = false ∧ s.nextPorts.cmdValid = false ∧ t = s.sample) := by
  unfold step stepSampled at h
  simp only [sample_ports, sample_busy, State.presented] at h
  cases hr : s.nextPorts.rst with
  | true => simp only [hr, if_true] at h; exact .inl ⟨rfl, by simpa using h.symm⟩
  | false =>
    cases hb : s.busy with
    | true => simp [hr, hb] at h; exact .inr (.inl ⟨rfl, rfl, h⟩)
    | false =>
      cases hv : s.nextPorts.cmdValid with
      | false => simp [hr, hb, hv] at h; exact .inr (.inr (.inr (.inr ⟨rfl, rfl, rfl, h.symm⟩)))
      | true =>
        cases hd : decodeCommand s.nextPorts.cmd with
        | ok i => simp [hr, hb, hv, hd] at h; exact .inr (.inr (.inl ⟨rfl, rfl, rfl, i, rfl, h⟩))
        | error e =>
          simp [hr, hb, hv, hd] at h
          exact .inr (.inr (.inr (.inl ⟨rfl, rfl, rfl, ⟨e, rfl⟩, raise_next h⟩)))

end Sys2Proof.Machine
end

