-- ==== Sys2Proof/Laws/Exec.lean ====
section
/-! SUPPORT. What the meanings can do, said once: every command on the idle block, every row of the output
language, and the sequencer. Later proofs about steps cite these and `step_next`, and unfold no meaning. -/

namespace Sys2Proof.Machine

/-- A word decodes to a command only, and to a well-formed one. -/
theorem decodeCommand_ok {w : CommandWord} {i : Instr} (h : decodeCommand w = .ok i) :
    i.isCommand = true ∧ i.wellFormed = true := by
  unfold decodeCommand decodeLinit decodeSpd decodeFn decodeAcc decodeBroadcast at h
  repeat' split at h
  all_goals
    first
    | (injection h with h; subst h; exact ⟨rfl, by first | rfl | simpa [Instr.wellFormed]⟩)
    | exact absurd h (by simp)

/-- A held mode other than 3 has a name; only 2 is the 128-step mode. -/
theorem stepModeOf_some {m : BitVec 2} {k : StepMode} (h : stepModeOf m = some k) :
    (k = .mode128 ↔ m = 2#2) ∧ m ≠ 3#2 := by
  unfold stepModeOf at h
  repeat' split at h
  all_goals first | (cases h; subst m; simp) | exact absurd h (by simp)

/-- `FN[i] <- on` writes bit `i` and no other. -/
theorem setFnBit_getLsbD (fn : BitVec 13) (i : Nat) (on : Bool) (j : Nat) (hj : j < 13) :
    (setFnBit fn i on).getLsbD j = if j = i then on else fn.getLsbD j := by
  cases on
  · by_cases h : j = i
    · subst h; simp [setFnBit]
    · simp only [setFnBit, h, if_false, Bool.false_eq_true]
      simp [hj]
      intros; omega
  · by_cases h : j = i
    · subst h; simp [setFnBit, hj]
    · simp [setFnBit, h, hj]
      intros; omega

/-- Everything a command can do on the idle block: refuse, construct the context, or start a frame. -/
theorem command_next {i : Instr} {s t : State} (hc : i.isCommand = true) (hb : s.busy = false)
    (h : exec i s = .next t) :
    (∃ e, t = s.respond e ∧
      (e = .invalidAddress ∨ e = .invalidSpeed ∨ e = .functionNotAvailable ∨ e = .invalidSubState ∨
        e = .illegalCommand)) ∨
    (∃ mode addr, i = .linit mode addr ∧ mode ≠ 3#2 ∧ validLoco addr = true ∧
      t = (s.construct mode addr).respond .ok) ∨
    (∃ dir speed m, i = .spd dir speed ∧ s.laddr ≠ 0#7 ∧ stepModeOf s.mode = some m ∧
      validSpeed m speed.toInt = true ∧
      sendPacket (locoAddrByte s.laddr :: speedBytes m speed.toInt dir) s = .next t) ∨
    (∃ idx on, i = .fn idx on ∧ s.laddr ≠ 0#7 ∧ idx.toNat ≤ 12 ∧
      sendPacket
        [locoAddrByte s.laddr, fnByte s.params.fnLayout (fnGroup idx.toNat) (setFnBit s.fn idx.toNat on)]
        (s.writeFn idx.toNat on) = .next t) ∨
    (∃ sub active addr, i = .acc sub active addr ∧ validAcc addr = true ∧ validSub sub = true ∧
      sendPacket [accByte1 addr, accByte2 addr active sub] s = .next t) ∨
    (i = .rst ∧ t = s.startFrame [0x00#8, 0x00#8, 0x00#8]) ∨
    (i = .idle ∧ t = s.startFrame [0xFF#8, 0x00#8, 0xFF#8]) ∨
    (i = .estop ∧ t = s.startFrame [0x00#8, 0x70#8, 0x70#8]) := by
  cases i with
  | linit mode addr =>
    simp only [exec, execLinit, whenReady_ready hb] at h
    split at h
    · exact .inl ⟨_, raise_next h, by simp⟩
    · split at h
      · simp at h
      · split at h
        · exact .inr (.inl ⟨_, _, rfl, by assumption, by assumption, by simpa using h.symm⟩)
        · exact .inl ⟨_, raise_next h, by simp⟩
  | spd dir speed =>
    simp only [exec, execSpd, whenReady_ready hb] at h
    split at h
    · exact .inl ⟨_, raise_next h, by simp⟩
    · split at h
      · simp at h
      · split at h
        · exact .inr (.inr (.inl ⟨_, _, _, rfl, by assumption, by assumption, by assumption, h⟩))
        · exact .inl ⟨_, raise_next h, by simp⟩
  | fn idx on =>
    simp only [exec, execFn, whenReady_ready hb] at h
    split at h
    · exact .inl ⟨_, raise_next h, by simp⟩
    · split at h
      · exact .inl ⟨_, raise_next h, by simp⟩
      · exact .inr (.inr (.inr (.inl ⟨_, _, rfl, by assumption, by omega, h⟩)))
  | acc sub active addr =>
    simp only [exec, execAcc, whenReady_ready hb] at h
    split at h
    · split at h
      · exact .inr (.inr (.inr (.inr (.inl ⟨_, _, _, rfl, by assumption, by assumption, h⟩))))
      · exact .inl ⟨_, raise_next h, by simp⟩
    · exact .inl ⟨_, raise_next h, by simp⟩
  | rst => simp [exec, execRst, whenReady_ready hb] at h; simp [h]
  | idle => simp [exec, execIdle, whenReady_ready hb] at h; simp [h]
  | estop => simp [exec, execEstop, whenReady_ready hb] at h; simp [h]
  | _ => simp [Instr.isCommand] at hc

/-- Every row of the output language is a step of the sequencer on some bit. -/
theorem outputRow_offers {i : Instr} (hc : i.isCommand = false) (s : State) :
    ∃ n bit, exec i s = offerBit n bit s := by
  cases i <;> simp [Instr.isCommand] at hc <;> exact ⟨_, _, rfl⟩

/-- Everything the sequencer can do on a frame in flight: abort, stall, end the frame, go on. -/
theorem sequenceFrame_next {s t : State} (h : sequenceFrame s = .next t) (hb : s.busy = true) :
    (transportChoice s.ports = .fault ∧ t = s.abort) ∨
    (transportChoice s.ports = .stall ∧ t = s) ∨
    (transportChoice s.ports = .accept ∧ ∃ b, s.offeredBit = some b ∧
      s.pos = s.params.preambleLen + 9 * s.nb.toNat ∧ t = (s.emit b).finish) ∨
    (transportChoice s.ports = .accept ∧ ∃ b, s.offeredBit = some b ∧
      s.pos ≠ s.params.preambleLen + 9 * s.nb.toNat ∧ t = (s.emit b).advance) := by
  rcases offerBit_next h with ⟨h1, -⟩ | ⟨-, h1, h2⟩ | ⟨-, h1, h2⟩ | ⟨-, h1, b, h2, h3⟩
  · simp [hb] at h1
  · exact .inl ⟨h1, h2⟩
  · exact .inr (.inl ⟨h1, h2⟩)
  · by_cases hp : s.pos = s.params.preambleLen + 9 * s.nb.toNat
    · exact .inr (.inr (.inl ⟨h1, b, h2, hp, by rw [h3, emitStep_last hp]⟩))
    · exact .inr (.inr (.inr ⟨h1, b, h2, hp, by rw [h3, emitStep_inner hp]⟩))

end Sys2Proof.Machine
end

