-- ==== Sys2Proof/Laws/PerInstr.lean ====
section
/-! SUPPORT. The family EncodingFitsPlace: the bits of each instruction have the width of the place it stands
in (30_encoding.md R40, R49, R50). -/

namespace Sys2Proof.Laws

/-- A command is encoded as a command word and stands on the command port; a packet byte as a byte in one of
the four places of a packet; a literal packet as a whole packet. -/
def EncodingFitsPlace.Statement (i : Instr) : Prop :=
  match encode i with
  | .command _ => i.isCommand = true ∧ i.place = .command
  | .packetByte _ => i.isCommand = false ∧ ∃ shape k, i.place = .packetByte shape k ∧ k < 4
  | .packet _ => i.isCommand = false ∧ i.place = .packet

theorem EncodingFitsPlace.linit (mode : BitVec 2) (addr : BitVec 16) :
    EncodingFitsPlace.Statement (.linit mode addr) := ⟨rfl, rfl⟩

theorem EncodingFitsPlace.spd (dir : Bool) (speed : BitVec 8) :
    EncodingFitsPlace.Statement (.spd dir speed) := ⟨rfl, rfl⟩

theorem EncodingFitsPlace.fn (idx : BitVec 4) (on : Bool) :
    EncodingFitsPlace.Statement (.fn idx on) := ⟨rfl, rfl⟩

theorem EncodingFitsPlace.acc (sub : BitVec 4) (active : Bool) (addr : BitVec 16) :
    EncodingFitsPlace.Statement (.acc sub active addr) := ⟨rfl, rfl⟩

theorem EncodingFitsPlace.rst :
    EncodingFitsPlace.Statement .rst := ⟨rfl, rfl⟩

theorem EncodingFitsPlace.idle :
    EncodingFitsPlace.Statement .idle := ⟨rfl, rfl⟩

theorem EncodingFitsPlace.estop :
    EncodingFitsPlace.Statement .estop := ⟨rfl, rfl⟩

theorem EncodingFitsPlace.dccLocoaddr (a : BitVec 7) :
    EncodingFitsPlace.Statement (.dccLocoaddr a) := ⟨rfl, _, _, rfl, by decide⟩

theorem EncodingFitsPlace.dccAccB1 (a : BitVec 6) :
    EncodingFitsPlace.Statement (.dccAccB1 a) := ⟨rfl, _, _, rfl, by decide⟩

theorem EncodingFitsPlace.dccAccB2 (h : BitVec 3) (c : Bool) (s : BitVec 3) :
    EncodingFitsPlace.Statement (.dccAccB2 h c s) := ⟨rfl, _, _, rfl, by decide⟩

theorem EncodingFitsPlace.dccSpeed128B1 :
    EncodingFitsPlace.Statement .dccSpeed128B1 := ⟨rfl, _, _, rfl, by decide⟩

theorem EncodingFitsPlace.dccSpeed128B2 (d : Bool) (f : BitVec 7) :
    EncodingFitsPlace.Statement (.dccSpeed128B2 d f) := ⟨rfl, _, _, rfl, by decide⟩

theorem EncodingFitsPlace.dccSpeed28 (d : Bool) (c : Bool) (r : BitVec 4) :
    EncodingFitsPlace.Statement (.dccSpeed28 d c r) := ⟨rfl, _, _, rfl, by decide⟩

theorem EncodingFitsPlace.dccFnG1 (f : BitVec 5) :
    EncodingFitsPlace.Statement (.dccFnG1 f) := ⟨rfl, _, _, rfl, by decide⟩

theorem EncodingFitsPlace.dccFnG2u (f : BitVec 4) :
    EncodingFitsPlace.Statement (.dccFnG2u f) := ⟨rfl, _, _, rfl, by decide⟩

theorem EncodingFitsPlace.dccFnG2l (f : BitVec 4) :
    EncodingFitsPlace.Statement (.dccFnG2l f) := ⟨rfl, _, _, rfl, by decide⟩

theorem EncodingFitsPlace.dccChecksum (x : Byte) :
    EncodingFitsPlace.Statement (.dccChecksum x) := ⟨rfl, _, _, rfl, by decide⟩

theorem EncodingFitsPlace.dccPktReset :
    EncodingFitsPlace.Statement .dccPktReset := ⟨rfl, rfl⟩

theorem EncodingFitsPlace.dccPktIdle :
    EncodingFitsPlace.Statement .dccPktIdle := ⟨rfl, rfl⟩

theorem EncodingFitsPlace.dccPktStopall :
    EncodingFitsPlace.Statement .dccPktStopall := ⟨rfl, rfl⟩

end Sys2Proof.Laws
end

