-- ==== Sys2Proof/Tests/Slice0.lean ====
section
/-! SUPPORT. Tests: ill-formed terms, decoding of words written out from the formats, one-step tests with the
results of spec/95_test_vectors.md and spec/96_test_programs.md, and a witness for the hypotheses of every
statement in Certificates/Slice0/Obligations.lean. -/

namespace Sys2Proof.Tests

open Sys2Proof.Machine

/-- The next state, if there is one. -/
def nextOf : Host.Outcome State Fault Refusal → Option State
  | .next t => some t
  | .fault _ => none
  | .refused _ => none

/-- The idle block with a loco context. -/
def loco (laddr : BitVec 7) (mode : BitVec 2) (fn : BitVec 13) : State :=
  { State.reset with laddr := laddr, mode := mode, fn := fn }

/-- Ports on which the transport stalls. -/
def stallPorts : Ports := { acceptPorts with txReady := false }

/-- Ports on which the transport faults. -/
def faultPorts : Ports := { acceptPorts with txFault := true }

/-- Ports on which reset is held. -/
def resetPorts : Ports := { acceptPorts with rst := true }

/-- A frame in flight at `pos`, `p` on the ports and first in the script. -/
def sending (bytes : List Byte) (pos : Nat) (p : Ports) : State :=
  { (State.reset.startFrame bytes) with pos := pos, ports := p, inputs := [p] }

/-- The idle block with the word presented to the next step. -/
def presenting (s : State) (w : CommandWord) : State := s.placeCommand w

/-! ## Well-formedness (30_encoding.md R48 (c), R52 (a)) -/

theorem test_wf_refuses_linit_mode_3 : (Instr.linit 3#2 5#16).wellFormed = false := by decide
theorem test_wf_refuses_locoaddr_0 : (Instr.dccLocoaddr 0#7).wellFormed = false := by decide

/-! ## Decoding, bits written out from the formats (30_encoding.md R41 to R46, R50) -/

theorem test_decode_linit :
    decodeCommand 0b0001_00_10_00000000_0000000000000011#32 = .ok (.linit 2#2 3#16) := by decide
theorem test_decode_spd :
    decodeCommand 0b0010_000_1_11111101_0000000000000000#32 = .ok (.spd true 0xFD#8) := by decide
theorem test_decode_fn :
    decodeCommand 0b0011_1100_0000000_1_0000000000000000#32 = .ok (.fn 12#4 true) := by decide
theorem test_decode_acc :
    decodeCommand 0b0100_0111_0000000_1_0000000111111111#32 = .ok (.acc 7#4 true 511#16) := by decide
theorem test_decode_rst : decodeCommand 0b0101_0000000000000000000000000000#32 = .ok .rst := by decide
theorem test_decode_idle : decodeCommand 0b0110_0000000000000000000000000000#32 = .ok .idle := by decide
theorem test_decode_estop : decodeCommand 0b0111_0000000000000000000000000000#32 = .ok .estop := by decide
theorem test_decode_locoaddr : decodePacketByte .speed28 0 0b0_0001010#8 = .ok (.dccLocoaddr 10#7) := by decide
theorem test_decode_acc_b1 : decodePacketByte .accessory 0 0b10_101010#8 = .ok (.dccAccB1 42#6) := by decide
theorem test_decode_acc_b2 :
    decodePacketByte .accessory 1 0b1_011_1_100#8 = .ok (.dccAccB2 3#3 true 4#3) := by decide
theorem test_decode_speed128_b1 : decodePacketByte .speed128 1 0b00111111#8 = .ok .dccSpeed128B1 := by decide
theorem test_decode_speed128_b2 :
    decodePacketByte .speed128 2 0b1_0111101#8 = .ok (.dccSpeed128B2 true 61#7) := by decide
theorem test_decode_speed28 :
    decodePacketByte .speed28 1 0b01_0_1_1000#8 = .ok (.dccSpeed28 false true 8#4) := by decide
theorem test_decode_fn_g1 : decodePacketByte .functionGroup 1 0b100_10100#8 = .ok (.dccFnG1 20#5) := by decide
theorem test_decode_fn_g2u : decodePacketByte .functionGroup 1 0b1011_0001#8 = .ok (.dccFnG2u 1#4) := by decide
theorem test_decode_fn_g2l : decodePacketByte .functionGroup 1 0b1010_1000#8 = .ok (.dccFnG2l 8#4) := by decide
theorem test_decode_checksum : decodePacketByte .speed28 2 0b10011010#8 = .ok (.dccChecksum 0x9A#8) := by decide
theorem test_decode_pkt_reset : decodePacket 0b00000000_00000000_00000000#24 = .ok .dccPktReset := by decide
theorem test_decode_pkt_idle : decodePacket 0b11111111_00000000_11111111#24 = .ok .dccPktIdle := by decide
theorem test_decode_pkt_stopall : decodePacket 0b00000000_01110000_01110000#24 = .ok .dccPktStopall := by decide
theorem test_decode_rejects_by_name :
    decodeCommand 0x80000000#32 = .error .reservedOpcode ∧ decodeCommand 0x14000003#32 = .error .mustBeZero ∧
      decodeCommand 0x13000003#32 = .error .illegalMode ∧
      decodePacketByte .speed28 0 0x00#8 = .error .noSuchRow := by decide

/-! ## The host's questions -/

theorem test_table_words :
    decodeTableWord 32 0x47FF0000 = none ∧ decodeTableWord 32 0x70000000 = some .estop ∧
      decodeTableWord 24 0x007070 = some .dccPktStopall ∧ decodeTableWord 8 0x3F = some .dccSpeed128B1 ∧
      decodeTableWord 8 0xB1 = some (.dccFnG2u 1#4) := by decide
theorem test_fetch_word_runs_first :
    (nextOf (step (State.reset.withFetchWord 32 0x12000003))).map (fun t => (t.laddr, t.mode, t.rsp)) =
      some (3#7, 2#2, some .ok) ∧
    (nextOf (step (State.reset.withFetchWord 8 0x40))).map (fun t => t.tx) = some [false] ∧
    (nextOf (step (State.reset.withFetchWord 24 0xFF00FF))).map (fun t => (t.tx, t.packet)) =
      some ([true], [0xFF#8, 0x00#8, 0xFF#8]) := by decide

/-! ## One step per row (95_test_vectors.md sections 2.1 to 2.4, 96_test_programs.md section 5) -/

theorem test_linit_clears_functions :
    (nextOf (exec (.linit 2#2 11#16) (loco 10#7 1#2 9#13))).map (fun t => (t.laddr, t.mode, t.fn, t.rsp)) =
      some (11#7, 2#2, 0#13, some .ok) := by decide
theorem test_linit_refused_keeps_context :
    (nextOf (exec (.linit 2#2 0x100#16) (loco 10#7 1#2 9#13))).map (fun t => (t.laddr, t.mode, t.fn, t.rsp)) =
      some (10#7, 1#2, 9#13, some .invalidAddress) := by decide
theorem test_spd_60_forward_mode128 :
    (nextOf (exec (.spd true 60#8) (loco 3#7 2#2 0#13))).map (fun t => t.packet) =
      some [0x03#8, 0x3F#8, 0xBD#8, 0x81#8] := by decide
theorem test_spd_14_reverse_mode28 :
    (nextOf (exec (.spd false 14#8) (loco 10#7 1#2 0#13))).map (fun t => t.packet) =
      some [0x0A#8, 0x58#8, 0x52#8] := by decide
theorem test_fn_3_on_nmra :
    (nextOf (exec (.fn 3#4 true) (loco 10#7 1#2 1#13))).map (fun t => (t.fn, t.packet)) =
      some (9#13, [0x0A#8, 0x94#8, 0x9E#8]) := by decide
theorem test_fn_12_off_concat :
    (nextOf (exec (.fn 12#4 false)
      { loco 10#7 1#2 0x1FFF#13 with params := { Params.default with fnLayout := .concat } })).map
        (fun t => (t.fn, t.packet)) = some (0x0FFF#13, [0x0A#8, 0xAE#8, 0xA4#8]) := by decide
theorem test_acc_300_1_4 :
    (nextOf (exec (.acc 4#4 true 300#16) State.reset)).map (fun t => t.packet) =
      some [0xAC#8, 0xBC#8, 0x10#8] := by decide
theorem test_acc_address_before_sub_state :
    (nextOf (exec (.acc 9#4 true 0#16) State.reset)).map (fun t => t.rsp) = some (some .invalidAddress) := by decide
theorem test_rst :
    (nextOf (exec .rst (loco 10#7 1#2 0x209#13))).map (fun t => (t.packet, t.fn)) =
      some ([0x00#8, 0x00#8, 0x00#8], 0x209#13) := by decide
theorem test_idle : (nextOf (exec .idle State.reset)).map (fun t => t.packet) = some [0xFF#8, 0x00#8, 0xFF#8] := by
  decide
theorem test_estop :
    (nextOf (exec .estop (loco 3#7 2#2 0#13))).map (fun t => t.packet) = some [0x00#8, 0x70#8, 0x70#8] := by decide
theorem test_locoaddr_separator_and_last_bit :
    (nextOf (exec (.dccLocoaddr 3#7) (sending [0x03#8, 0x3F#8, 0xBD#8, 0x81#8] 14 acceptPorts))).map (·.tx) =
      some [false] ∧
    (nextOf (exec (.dccLocoaddr 3#7) (sending [0x03#8, 0x3F#8, 0xBD#8, 0x81#8] 22 acceptPorts))).map (·.tx) =
      some [true] := by decide
theorem test_acc_b1_first_bit :
    (nextOf (exec (.dccAccB1 42#6) (sending [0xAA#8, 0xF9#8, 0x53#8] 15 acceptPorts))).map (·.tx) = some [true] := by
  decide
theorem test_acc_b2_active_bit :
    (nextOf (exec (.dccAccB2 0#3 true 0#3) (sending [0x80#8, 0x88#8, 0x08#8] 28 acceptPorts))).map (·.tx) =
      some [true] := by decide
theorem test_speed128_b1_second_bit :
    (nextOf (exec .dccSpeed128B1 (sending [0x03#8, 0x3F#8, 0xBD#8, 0x81#8] 25 acceptPorts))).map (·.tx) =
      some [false] := by decide
theorem test_speed128_b2_direction :
    (nextOf (exec (.dccSpeed128B2 true 61#7) (sending [0x03#8, 0x3F#8, 0xBD#8, 0x81#8] 33 acceptPorts))).map
      (·.tx) = some [true] := by decide
theorem test_speed28_low_bit_place :
    (nextOf (exec (.dccSpeed28 false true 0#4) (sending [0x0A#8, 0x50#8, 0x5A#8] 27 acceptPorts))).map (·.tx) =
      some [true] := by decide
theorem test_fn_g1_f0_place :
    (nextOf (exec (.dccFnG1 16#5) (sending [0x0A#8, 0x90#8, 0x9A#8] 27 acceptPorts))).map (·.tx) = some [true] := by
  decide
theorem test_fn_g2u_fourth_bit :
    (nextOf (exec (.dccFnG2u 0#4) (sending [0x0A#8, 0xB0#8, 0xBA#8] 27 acceptPorts))).map (·.tx) = some [true] := by
  decide
theorem test_fn_g2l_fourth_bit :
    (nextOf (exec (.dccFnG2l 0#4) (sending [0x0A#8, 0xA0#8, 0xAA#8] 27 acceptPorts))).map (·.tx) = some [false] := by
  decide
theorem test_checksum_last_bit :
    (nextOf (exec (.dccChecksum 0x81#8) (sending [0x03#8, 0x3F#8, 0xBD#8, 0x81#8] 49 acceptPorts))).map
      (fun t => (t.tx, t.pos)) = some ([true], 50) := by decide
theorem test_pkt_reset_stop_bit :
    (nextOf (exec .dccPktReset (sending [0x00#8, 0x00#8, 0x00#8] 41 acceptPorts))).map
      (fun t => (t.tx, t.busy, t.rsp)) = some ([true], false, some .ok) := by decide
theorem test_pkt_idle_first_byte :
    (nextOf (exec .dccPktIdle (sending [0xFF#8, 0x00#8, 0xFF#8] 15 acceptPorts))).map (·.tx) = some [true] := by decide
theorem test_pkt_stopall_abort :
    (nextOf (exec .dccPktStopall (sending [0x00#8, 0x70#8, 0x70#8] 20 faultPorts))).map
      (fun t => (t.tx, t.busy, t.rsp)) = some ([], false, some .transportError) := by decide

/-! ## The machine (96_test_programs.md section 5.1: frames as bit strings) -/

theorem test_frame_of_stop_all :
    frame [0x00#8, 0x70#8, 0x70#8] 14 =
      "111111111111110000000000011100000011100001".toList.map (· == '1') := by decide
theorem test_bit_at :
    [0, 13, 14, 22, 24, 33, 34, 40, 42, 49, 50, 51].map
      (bitAt 14 { b0 := 0x03#8, b1 := 0x3F#8, b2 := 0xBD#8, b3 := 0x81#8 } 4) =
      [some true, some true, some false, some true, some false, some true, some false, some true, some true,
        some true, some true, none] := by decide
theorem test_illegal_word :
    (nextOf (step (presenting (loco 10#7 1#2 9#13) 0x50000001#32))).map (fun t => (t.fn, t.busy, t.rsp)) =
      some (9#13, false, some .illegalCommand) := by decide
theorem test_reset_cuts_frame :
    (nextOf (step { sending [0x0A#8, 0x61#8, 0x6B#8] 20 resetPorts with laddr := 10#7, fn := 0x209#13 })).map
      (fun t => (t.laddr, t.fn, t.busy, t.rsp, t.tx)) = some (0#7, 0#13, false, none, []) := by decide

/-! ## Witnesses: states and operands that meet the hypotheses of the statements -/

theorem witness_LegalWordIsTheEncodingOfItsCommand :
    ∃ w i, decodeCommand w = .ok i := ⟨0x4F01FFFF#32, _, rfl⟩
theorem witness_WellFormedInstructionDecodesFromItsEncoding :
    (Instr.linit 2#2 127#16).wellFormed = true ∧ (Instr.dccLocoaddr 1#7).wellFormed = true ∧ (127#7 ≠ 0#7) := by
  decide
theorem witness_IllegalWordsAreThoseOfTheRuleAndDoNothing :
    let s := presenting State.reset 0x8FFFFFFF#32
    s.nextPorts.rst = false ∧ s.busy = false ∧ s.nextPorts.cmdValid = true ∧
      decodeCommand s.nextPorts.cmd = .error .reservedOpcode := by decide
/-- A machine whose switch of U7 refuses 14-step mode. -/
def cautious : State := { State.reset with params := { Params.default with mode14 := .refused } }

theorem witness_AddressBytesRecoverTheirOperands :
    (State.reset.busy = false ∧ 0#2 ≠ 3#2 ∧ (0#2 = 0#2 → State.reset.params.mode14 = .likeMode28)) ∧
      (cautious.busy = false ∧ 2#2 ≠ 3#2 ∧ (2#2 = 0#2 → cautious.params.mode14 = .likeMode28)) ∧
      ((0#16 = 0#16) ∧ (128#16 ≤ 128#16)) := by decide
theorem witness_SpeedBytesRecoverSpeedAndDirection :
    (-1 : Int) ≤ -1 ∧ (126 : Int) ≤ 126 ∧ (-3 : Int) ≤ -3 ∧ (28 : Int) ≤ 28 ∧
      speed128 126 true = speed128 126 true ∧ speed28 (-3) false = speed28 (-3) false := by decide
theorem witness_FunctionByteHoldsItsBitsByLayout :
    let fn := 0x1FFF#13
    (fn.extractLsb' 1 1).setWidth 8 = (fn.extractLsb' 2 1).setWidth 8 ∧
      ((fn.extractLsb' 12 1).setWidth 8 : Byte) = (fn.extractLsb' 9 1).setWidth 8 := by decide
theorem witness_FrameHasItsShape :
    [0xAA#8, 0xF9#8, 0x53#8] = [0xAA#8, 0xF9#8] ++ [xorBytes [0xAA#8, 0xF9#8]] ∧ 0 < 14 ∧ 13 < 14 ∧ 2 < 3 := by
  decide
theorem witness_BitAtIsTheBitOfTheFrame :
    4 ≤ 4 ∧ 13 < 14 ∧ 3 < 4 ∧ (1 ≤ 1 ∧ 8 ≤ 8) ∧ 14 + 9 * 4 ≤ 14 + 9 * 4 ∧ 0 ≤ 14 + 9 * 3 := by decide
theorem witness_IllegalWordIsRefused :
    (∀ w : CommandWord, (presenting State.reset w).nextPorts.rst = false ∧ (presenting State.reset w).busy = false ∧
      (presenting State.reset w).nextPorts.cmdValid = true ∧ (presenting State.reset w).nextPorts.cmd = w) ∧
    decodeCommand 0x13000003#32 = .error .illegalMode ∧ decodeCommand 0x30020000#32 = .error .mustBeZero ∧
    decodeCommand 0x40020001#32 = .error .mustBeZero ∧ decodeCommand 0x50000001#32 = .error .mustBeZero ∧
    decodeCommand 0x68000000#32 = .error .mustBeZero ∧ decodeCommand 0x70800000#32 = .error .mustBeZero :=
  ⟨fun _ => ⟨rfl, rfl, rfl, rfl⟩, by decide⟩
theorem witness_LinitConstructsTheContextOrRefuses :
    State.reset.busy = false ∧ State.reset.params.mode14 = .likeMode28 ∧ cautious.busy = false ∧
      (∀ mode ∈ [1#2, 2#2, 3#2], mode = 0#2 → cautious.params.mode14 = .likeMode28) ∧ (3#2 = 3#2) ∧
      (0#2 ≠ 3#2 ∧ 128#16 ≤ 128#16) ∧ (0#2 ≠ 3#2 ∧ 1#16 ≤ 1#16 ∧ 1#16 ≤ 127#16) ∧
      (2#2 ≠ 3#2 ∧ 1#16 ≤ 127#16 ∧ 127#16 ≤ 127#16) := by decide
theorem witness_CautiousSwitchRefusesOnlyMode14 :
    cautious.busy = false ∧ cautious.params.mode14 = .refused ∧ (1#2 = 1#2 ∨ 1#2 = 2#2) ∧
      (0#16 = 0#16 ∧ 128#16 ≤ 128#16) ∧ (1#16 ≤ 1#16 ∧ 127#16 ≤ 127#16) := by decide
theorem witness_SpdInMode128SendsFourBytes :
    let s := loco 127#7 2#2 0#13
    s.busy = false ∧ s.laddr ≠ 0#7 ∧ s.mode = 2#2 ∧ (-1 ≤ (0xFF#8).toInt ∧ (126#8).toInt ≤ 126) ∧
      ((0xFE#8).toInt < -1 ∧ 126 < (127#8).toInt) := by decide
theorem witness_SpdInMode28SendsThreeBytes :
    let s := loco 1#7 1#2 0#13
    s.busy = false ∧ s.laddr ≠ 0#7 ∧ s.mode = 1#2 ∧ (-3 ≤ (0xFD#8).toInt ∧ (28#8).toInt ≤ 28) ∧
      ((0xFC#8).toInt < -3 ∧ 28 < (29#8).toInt) := by decide
theorem witness_SpdInMode14BehavesAsInMode28 : (loco 10#7 0#2 0#13).mode = 0#2 := by decide
theorem witness_SpdAndFnNeedALoco : State.reset.busy = false ∧ State.reset.laddr = 0#7 := by decide
theorem witness_FnWritesOneBitAndSendsItsGroup :
    let s := loco 10#7 2#2 9#13
    State.reset.busy = false ∧ State.reset.laddr = 0#7 ∧ s.busy = false ∧ s.laddr ≠ 0#7 ∧ (0#4).toNat ≤ 4 ∧ (4#4).toNat ≤ 4 ∧ 5 ≤ (5#4).toNat ∧ (8#4).toNat ≤ 8 ∧
      9 ≤ (9#4).toNat ∧ (12#4).toNat ≤ 12 ∧ 13 ≤ (13#4).toNat ∧ 13 ≤ (15#4).toNat := by decide
theorem witness_RepeatedFnSendsTheSamePacket :
    (loco 10#7 1#2 1#13).busy = false ∧ (loco 10#7 1#2 1#13).laddr ≠ 0#7 ∧ (3#4).toNat ≤ 12 := by decide
theorem witness_FnWithTheHeldValueResendsItsGroup :
    (loco 10#7 1#2 9#13).busy = false ∧ (loco 10#7 1#2 9#13).laddr ≠ 0#7 ∧ (12#4).toNat ≤ 12 := by decide
theorem witness_AccSendsItsPacketOrRefuses :
    State.reset.busy = false ∧ (1#16 ≤ 1#16 ∧ 511#16 ≤ 511#16 ∧ 7#4 ≤ 7#4) ∧ (0#16 = 0#16 ∧ 512#16 ≤ 512#16) ∧
      (1#16 ≤ 511#16 ∧ 8#4 ≤ 8#4) := by decide
theorem witness_BroadcastCommandsSendTheirLiterals : State.reset.busy = false := by decide
theorem witness_AccAndBroadcastsIgnoreTheLocoContext :
    ∃ i : Instr, (∃ sub active addr, i = .acc sub active addr) ∨ i = .rst ∨ i = .idle ∨ i = .estop :=
  ⟨.acc 1#4 true 42#16, .inl ⟨_, _, _, rfl⟩⟩
theorem witness_CommandHasNoEffectWhileBusy :
    Instr.isCommand .estop = true ∧ (sending [0x00#8, 0x00#8, 0x00#8] 5 acceptPorts).busy = true := by decide
theorem witness_FourBytesExactlyForSpeed128 :
    ∃ t, (loco 3#7 2#2 0#13).busy = false ∧ exec (.spd true 60#8) (loco 3#7 2#2 0#13) = .next t ∧ t.busy = true :=
  ⟨_, rfl, rfl, rfl⟩
theorem witness_PacketByteRowsSendTheirNextBit :
    let s := sending [0x0A#8, 0x58#8, 0x52#8] 14 acceptPorts
    let u := sending [0x0A#8, 0x58#8, 0x52#8] 40 acceptPorts
    s.busy = true ∧ s.ports.txFault = false ∧ s.ports.txReady = true ∧ s.params.preambleLen ≤ s.pos ∧
      s.pos < s.params.preambleLen + 9 * s.nb.toNat ∧ u.busy = true ∧ u.params.preambleLen ≤ u.pos ∧
      u.pos < u.params.preambleLen + 9 * u.nb.toNat := by decide
theorem witness_LiteralPacketRowsSendTheirFrame :
    let s := sending [0x00#8, 0x70#8, 0x70#8] 40 acceptPorts
    let u := sending [0x00#8, 0x70#8, 0x70#8] 41 acceptPorts
    s.busy = true ∧ s.ports.txFault = false ∧ s.ports.txReady = true ∧ s.pos < s.params.preambleLen + 27 ∧
      u.busy = true ∧ u.ports.txReady = true ∧ u.pos = u.params.preambleLen + 27 := by decide
theorem witness_OutputRowsStallAbortAndIdle :
    Instr.isCommand .dccPktIdle = false ∧
      ((sending [0xFF#8, 0x00#8, 0xFF#8] 0 faultPorts).busy = true ∧
        (sending [0xFF#8, 0x00#8, 0xFF#8] 0 faultPorts).ports.txFault = true) ∧
      ((sending [0xFF#8, 0x00#8, 0xFF#8] 0 stallPorts).ports.txFault = false ∧
        (sending [0xFF#8, 0x00#8, 0xFF#8] 0 stallPorts).ports.txReady = false) ∧ State.reset.busy = false := by
  decide
theorem witness_StepSendsThePacketByteInFlight :
    let s := sending [0x0A#8, 0x58#8, 0x52#8] 31 acceptPorts
    s.nextPorts.rst = false ∧ s.busy = true ∧ encode (.dccSpeed28 false true 8#4) = .packetByte 0x58#8 ∧
      1 < s.nb.toNat ∧ s.buf.get? 1 = some 0x58#8 ∧ s.params.preambleLen + 9 * 1 ≤ s.pos ∧
      s.pos < s.params.preambleLen + 9 * 1 + 9 := by decide
theorem witness_StepSendsTheLiteralPacketInFlight :
    let s := sending [0x00#8, 0x70#8, 0x70#8] 41 acceptPorts
    s.nextPorts.rst = false ∧ s.busy = true ∧
      encode .dccPktStopall = .packet (0x00#8 ++ 0x70#8 ++ 0x70#8) ∧ s.nb = 3#3 ∧
      s.packet = [0x00#8, 0x70#8, 0x70#8] ∧ s.pos ≤ s.params.preambleLen + 27 := by decide
theorem witness_StepRunsThePresentedCommand :
    let s := presenting State.reset 0x4101002A#32
    s.nextPorts.rst = false ∧ s.busy = false ∧ s.nextPorts.cmdValid = true ∧
      decodeCommand s.nextPorts.cmd = .ok (.acc 1#4 true 42#16) := by decide
theorem witness_ResetStepClearsTheContextAndCutsTheFrame :
    (sending [0x0A#8, 0x61#8, 0x6B#8] 20 resetPorts).nextPorts.rst = true := by decide
theorem witness_IdleStepDoesNothing :
    let s := { State.reset with inputs := [faultPorts] }
    s.nextPorts.rst = false ∧ s.busy = false ∧ s.nextPorts.cmdValid = false := by decide
theorem witness_EmitStepSendsTheBitAtPos :
    let s := sending [0x03#8, 0x3F#8, 0xBD#8, 0x81#8] 50 acceptPorts
    let u := sending [0x03#8, 0x3F#8, 0xBD#8, 0x81#8] 0 acceptPorts
    s.nextPorts.rst = false ∧ s.busy = true ∧ s.nb.toNat ≤ 4 ∧ s.nextPorts.txFault = false ∧
      s.nextPorts.txReady = true ∧ s.pos = s.params.preambleLen + 9 * s.nb.toNat ∧ u.busy = true ∧
      u.pos ≤ u.params.preambleLen + 9 * u.nb.toNat ∧ u.pos ≠ u.params.preambleLen + 9 * u.nb.toNat := by decide
theorem witness_TransportFaultDropsTheFrame :
    let s := sending [0x05#8, 0x84#8, 0x81#8] 41 faultPorts
    let u := { State.reset with inputs := [faultPorts] }
    ∃ t, s.nextPorts.rst = false ∧ s.busy = true ∧ s.nextPorts.txFault = true ∧ u.busy = false ∧
      u.inputs = faultPorts :: [] ∧ step u = .next t := ⟨_, rfl, rfl, rfl, rfl, rfl, rfl⟩
theorem witness_StallingTransportHoldsTheBlock :
    let s := sending [0x05#8, 0x84#8, 0x81#8] 3 stallPorts
    s.busy = true ∧ s.inputs = [stallPorts] ++ [] ∧
      (∀ p ∈ [stallPorts], p.rst = false ∧ p.txFault = false ∧ p.txReady = false) ∧ [stallPorts] ≠ [] := by decide

/-- A started frame with a script: a stall, then 42 accepts (all of a 3-byte frame at `P = 14`), then a fault. -/
def scripted : State :=
  { sending [0x05#8, 0x84#8, 0x81#8] 0 stallPorts with
    inputs := stallPorts :: (List.replicate 42 acceptPorts ++ [faultPorts]) }

theorem witness_SequencerSendsExactlyTheFrame :
    scripted.busy = true ∧ scripted.pos = 0 ∧ scripted.nb = 3#3 ∧
      scripted.inputs = (stallPorts :: List.replicate 41 acceptPorts) ++ [acceptPorts, faultPorts] ∧
      (stallPorts :: List.replicate 41 acceptPorts).countP (·.txReady) = 14 + 9 * 3 ∧
      scripted.inputs = (stallPorts :: List.replicate 42 acceptPorts) ++ [faultPorts] ∧
      (stallPorts :: List.replicate 42 acceptPorts).countP (·.txReady) = 14 + 9 * 3 + 1 ∧
      (∀ p ∈ stallPorts :: List.replicate 42 acceptPorts, p.rst = false ∧ p.txFault = false) ∧
      ((stallPorts :: List.replicate 42 acceptPorts).getLast?.map fun p => p.txReady) = some true := by decide

theorem inv_sending : Inv (sending [0x05#8, 0x84#8, 0x81#8] 41 acceptPorts) :=
  ⟨by decide, by decide, by decide, by decide, by decide, by decide, by decide⟩

theorem witness_EveryStepKeepsTheInvariants :
    ∃ s t : State, Inv s ∧ s.busy = true ∧ step s = .next t ∧ t.rsp = some .ok :=
  ⟨_, _, inv_sending, rfl, rfl, rfl⟩
theorem witness_EveryStepKeepsPacketsLegal :
    ∃ s t : State, PacketInFlightLegal s ∧ s.busy = true ∧ step s = .next t ∧ t.busy = true :=
  ⟨sending [0x05#8, 0x84#8, 0x81#8] 40 acceptPorts, _, fun _ => by decide, rfl, rfl, rfl⟩
theorem witness_NoStepStopsFromTheInvariants :
    ∃ s : State, Inv s ∧ s.busy = true ∧ s.params.mode14 = .likeMode28 := ⟨_, inv_sending, rfl, rfl⟩
theorem witness_RefusedCommandChangesNothing :
    ∃ t, step (presenting (loco 10#7 1#2 9#13) 0x3D010000#32) = .next t ∧ t.rsp = some .functionNotAvailable :=
  ⟨_, rfl, rfl⟩
theorem witness_ErrorsAreAnsweredExactlyUnderTheirCauses :
    let s := presenting State.reset 0x4901002A#32
    ∃ t, s.nextPorts.rst = false ∧ s.busy = false ∧ s.nextPorts.cmdValid = true ∧ step s = .next t ∧
      t.rsp = some .invalidSubState := ⟨_, rfl, rfl, rfl, rfl, rfl⟩
theorem witness_ResponseCodeFourIsNeverDriven :
    ∃ t, step (presenting State.reset 0x217F0000#32) = .next t ∧ t.rspValid = true := ⟨_, rfl, rfl⟩
theorem witness_EveryAcceptedCommandIsAnsweredOnce :
    ∃ t, (presenting State.reset 0x50000000#32).nextPorts.rst = false ∧
      step (presenting State.reset 0x50000000#32) = .next t := ⟨_, rfl, rfl⟩
theorem witness_CommandPortIsIgnoredWhileBusy :
    let s := sending [0x05#8, 0x84#8, 0x81#8] 14 acceptPorts
    ∃ t, s.busy = true ∧ s.inputs = acceptPorts :: [] ∧ step s = .next t := ⟨_, rfl, rfl, rfl⟩
theorem witness_OnlyFnLinitAndResetWriteFunctionBits :
    let s := presenting (loco 10#7 1#2 0#13) 0x33010000#32
    ∃ t, step s = .next t ∧ t.fn.getLsbD 3 ≠ s.fn.getLsbD 3 := ⟨_, rfl, by decide⟩
theorem witness_OnlyLinitAndResetWriteAddressAndMode :
    let s := presenting (loco 10#7 1#2 9#13) 0x12000005#32
    ∃ t, step s = .next t ∧ (t.laddr ≠ s.laddr ∨ t.mode ≠ s.mode) := ⟨_, rfl, by decide⟩
theorem witness_OutputGrowsOnlyByTheTakenBit :
    ∃ t, step (sending [0x05#8, 0x84#8, 0x81#8] 14 acceptPorts) = .next t ∧ t.tx = [false] := ⟨_, rfl, rfl⟩
theorem witness_PositionAdvancesByOnePerEmittedBit :
    ∃ t, (sending [0x05#8, 0x84#8, 0x81#8] 14 acceptPorts).busy = true ∧ t.busy = true ∧
      step (sending [0x05#8, 0x84#8, 0x81#8] 14 acceptPorts) = .next t := ⟨_, rfl, rfl, rfl⟩
theorem witness_NoStepChangesTheParameters :
    ∃ t, step (presenting State.reset 0x60000000#32) = .next t := ⟨_, rfl⟩
theorem witness_ResponseCodesAreNumberedAsInTheTable :
    (State.reset.respond .invalidSubState).rsp = some .invalidSubState := rfl

end Sys2Proof.Tests
end

section
/-! PROOFS. The parameters are static (00_scope.md R5): none of the things a step can do writes them. -/

namespace Sys2Proof.Machine

/-- The frame of an accepted command: whether it refuses, constructs the context or starts a frame, it leaves
the parameters alone. -/
theorem command_keeps_params {i : Instr} {s t : State} (hc : i.isCommand = true) (hb : s.busy = false)
    (h : exec i s = .next t) : t.params = s.params := by
  rcases command_next hc hb h with
    ⟨e, rfl, -⟩ | ⟨mode, addr, -, -, -, rfl⟩ | ⟨_, _, _, -, -, -, -, hspd⟩ | ⟨idx, on, -, -, -, hfn⟩ |
    ⟨_, _, _, -, -, -, hacc⟩ | ⟨-, rfl⟩ | ⟨-, rfl⟩ | ⟨-, rfl⟩
  · exact respond_params s e
  · rw [respond_params, construct_params]
  · rw [sendPacket_next hspd, startFrame_params]
  · rw [sendPacket_next hfn, startFrame_params, writeFn_params]
  · rw [sendPacket_next hacc, startFrame_params]
  · exact startFrame_params s _
  · exact startFrame_params s _
  · exact startFrame_params s _

/-- The frame of a sequencer step: abort, stall, the last bit and an inner bit leave the parameters alone. -/
theorem sequenceFrame_keeps_params {s t : State} (hb : s.busy = true) (h : sequenceFrame s = .next t) :
    t.params = s.params := by
  rcases sequenceFrame_next h hb with
    ⟨-, rfl⟩ | ⟨-, rfl⟩ | ⟨-, b, -, -, rfl⟩ | ⟨-, b, -, -, rfl⟩
  · exact abort_params s
  · rfl
  · rw [finish_params, emit_params]
  · rw [advance_params, emit_params]

/-- Settles O51, by the cases of what a step can do: reset, a sequencer step, a command, an illegal word,
nothing. -/
theorem noStepChangesTheParameters : Obligations.NoStepChangesTheParameters := by
  intro s t h
  rcases step_next h with
    ⟨-, rfl⟩ | ⟨-, hb, hseq⟩ | ⟨-, hb, -, i, hdec, hexec⟩ | ⟨-, -, -, -, rfl⟩ | ⟨-, -, -, rfl⟩
  · rw [applyReset_params, sample_params]
  · exact sequenceFrame_keeps_params (s := s.sample) hb hseq
  · obtain ⟨hcommand, -⟩ := decodeCommand_ok hdec
    exact command_keeps_params (s := s.sample) hcommand hb hexec
  · rw [respond_params, sample_params]
  · exact sample_params s

end Sys2Proof.Machine
end

section
/-! PROOFS. The invariants (10_state.md R21, R15, 00_scope.md R5): one lemma per state operation, then what a
command, the sequencer and a whole step do with them. Last, the position of a frame in flight (10_state.md R17). -/

namespace Sys2Proof.Machine

/-! ## The packet in flight -/

/-- The used bytes are read off `BUF` and `NB` alone, so an operation that keeps both keeps the packet. -/
theorem packet_congr {s t : State} (hbuf : t.buf = s.buf) (hnb : t.nb = s.nb) : t.packet = s.packet := by
  rw [State.packet, State.packet, hbuf, hnb]

@[simp] theorem sample_packet (s : State) : s.sample.packet = s.packet := packet_congr rfl rfl
@[simp] theorem emit_packet (s : State) (b : Bool) : (s.emit b).packet = s.packet := packet_congr rfl rfl
@[simp] theorem advance_packet (s : State) : s.advance.packet = s.packet := packet_congr rfl rfl

/-- A frame of three or four bytes has exactly the bytes it was started with (45_framer.md R102). -/
theorem startFrame_packet (s : State) {bytes : List Byte} (hlen : bytes.length = 3 ∨ bytes.length = 4) :
    (s.startFrame bytes).packet = bytes := by
  match bytes, hlen with
  | [x, y, z], _ => exact startFrame_packet_three s x y z
  | [x, y, z, u], _ => exact startFrame_packet_four s x y z u

/-- `POS` is wide enough for the stop bit of the longest frame (10_state.md R15). -/
theorem add_36_lt_two_pow_posWidth (P : Nat) : P + 36 < 2 ^ posWidth P := Nat.lt_log2_self

/-- `SPD` sends one or two instruction bytes (41_speed.md R73, R74, R75). -/
theorem speedBytes_length (m : StepMode) (speed : Int) (dir : Bool) :
    (speedBytes m speed dir).length = 1 ∨ (speedBytes m speed dir).length = 2 := by
  cases m with
  | mode14 => exact .inl rfl
  | mode28 => exact .inl rfl
  | mode128 => exact .inr rfl

/-! ## The invariants under the state operations -/

/-- On the idle block only the context, the preamble length and the width of `POS` are constrained. -/
theorem Inv.of_idle {s : State} (hidle : s.busy = false) (hmode : s.mode ≠ 3#2)
    (hfn : s.laddr = 0#7 → s.fn = 0#13) (hP : 14 ≤ s.params.preambleLen)
    (hpos : s.pos < 2 ^ posWidth s.params.preambleLen) : Inv s where
  mode_held := hmode
  frame_length hbusy := by simp [hidle] at hbusy
  frame_pos hbusy := by simp [hidle] at hbusy
  frame_checksum hbusy := by simp [hidle] at hbusy
  no_loco_no_functions := hfn
  preamble_bound := hP
  pos_width := hpos

/-- Sampling writes none of the registers that the invariants read. -/
theorem Inv.sample {s : State} (hs : Inv s) : Inv s.sample := { hs with }

/-- A response writes none of the registers that the invariants read. -/
theorem Inv.respond {s : State} (hs : Inv s) (r : Response) : Inv (s.respond r) := { hs with }

/-- An emitted bit writes none of the registers that the invariants read. -/
theorem Inv.emit {s : State} (hs : Inv s) (b : Bool) : Inv (s.emit b) := { hs with }

/-- The free value that reset leaves in `POS` is cut to the register's width; of the state before, only the
parameters matter. -/
theorem Inv.applyReset {s : State} (hs : Inv s) : Inv s.applyReset :=
  .of_idle rfl (by simp) (fun _ => rfl) hs.preamble_bound (Nat.mod_lt _ (Nat.two_pow_pos _))

theorem Inv.abort {s : State} (hs : Inv s) : Inv s.abort :=
  .of_idle rfl hs.mode_held hs.no_loco_no_functions hs.preamble_bound hs.pos_width

theorem Inv.finish {s : State} (hs : Inv s) : Inv s.finish :=
  .of_idle rfl hs.mode_held hs.no_loco_no_functions hs.preamble_bound hs.pos_width

theorem Inv.construct {s : State} (hs : Inv s) {mode : BitVec 2} (hmode : mode ≠ 3#2) (addr : BitVec 16) :
    Inv (s.construct mode addr) :=
  { hs with mode_held := hmode, no_loco_no_functions := fun _ => rfl }

/-- A function bit is written with a loco constructed only, so R21 (d) stays vacuous. -/
theorem Inv.writeFn {s : State} (hs : Inv s) (hloco : s.laddr ≠ 0#7) (i : Nat) (on : Bool) :
    Inv (s.writeFn i on) :=
  { hs with no_loco_no_functions := fun h => absurd h hloco }

/-- A frame of three or four bytes that folds to zero starts with the invariants (10_state.md R21 (c)). -/
theorem Inv.startFrame {s : State} (hs : Inv s) {bytes : List Byte}
    (hlen : bytes.length = 3 ∨ bytes.length = 4) (hxor : xorBytes bytes = 0x00#8) :
    Inv (s.startFrame bytes) where
  mode_held := hs.mode_held
  frame_length _ := hlen.imp (fun h => by rw [startFrame_nb, h]) (fun h => by rw [startFrame_nb, h])
  frame_pos _ := Nat.zero_le _
  frame_checksum _ := by rw [startFrame_packet s hlen, hxor]
  no_loco_no_functions := hs.no_loco_no_functions
  preamble_bound := hs.preamble_bound
  pos_width := Nat.two_pow_pos _

/-- Two or three data bytes and their checksum are a frame with the invariants (44_checksum.md R97). -/
theorem Inv.sendPacket {s t : State} (hs : Inv s) {data : List Byte}
    (hlen : data.length = 2 ∨ data.length = 3) (h : sendPacket data s = .next t) : Inv t := by
  rw [sendPacket_next h]
  exact hs.startFrame (by simpa using hlen) (xorBytes_append_self data)

/-- Before the stop bit there is room for `POS` to advance, in the frame and in the register. -/
theorem Inv.advance {s : State} (hs : Inv s) (hbusy : s.busy = true)
    (hinner : s.pos ≠ s.params.preambleLen + 9 * s.nb.toNat) : Inv s.advance := by
  have hpos : s.pos + 1 ≤ s.params.preambleLen + 9 * s.nb.toNat := by
    have := hs.frame_pos hbusy
    omega
  have hnb : s.nb.toNat ≤ 4 := by
    rcases hs.frame_length hbusy with h | h <;> simp [h]
  have hwidth : s.pos + 1 < 2 ^ posWidth s.params.preambleLen :=
    calc s.pos + 1 ≤ s.params.preambleLen + 36 := by omega
      _ < 2 ^ posWidth s.params.preambleLen := add_36_lt_two_pow_posWidth _
  exact { hs with frame_pos := fun _ => hpos, pos_width := hwidth }

/-! ## The invariants under a step -/

theorem command_keeps_inv {i : Instr} {s t : State} (hs : Inv s) (hc : i.isCommand = true)
    (hb : s.busy = false) (h : exec i s = .next t) : Inv t := by
  rcases command_next hc hb h with
    ⟨e, rfl, -⟩ | ⟨mode, addr, -, hmode, -, rfl⟩ | ⟨dir, speed, m, -, -, -, -, hspd⟩ |
    ⟨idx, on, -, hloco, -, hfn⟩ | ⟨_, _, _, -, -, -, hacc⟩ | ⟨-, rfl⟩ | ⟨-, rfl⟩ | ⟨-, rfl⟩
  · exact hs.respond e
  · exact (hs.construct hmode addr).respond .ok
  · have hlen := speedBytes_length m speed.toInt dir
    exact hs.sendPacket (by simpa using hlen) hspd
  · exact (hs.writeFn hloco idx.toNat on).sendPacket (.inl rfl) hfn
  · exact hs.sendPacket (.inl rfl) hacc
  · exact hs.startFrame (.inl rfl) (by decide)
  · exact hs.startFrame (.inl rfl) (by decide)
  · exact hs.startFrame (.inl rfl) (by decide)

theorem sequenceFrame_keeps_inv {s t : State} (hs : Inv s) (hb : s.busy = true)
    (h : sequenceFrame s = .next t) : Inv t := by
  rcases sequenceFrame_next h hb with
    ⟨-, rfl⟩ | ⟨-, rfl⟩ | ⟨-, b, -, -, rfl⟩ | ⟨-, b, -, hinner, rfl⟩
  · exact hs.abort
  · exact hs
  · exact (hs.emit b).finish
  · exact (hs.emit b).advance hb hinner

/-- Settles O37, by the cases of what a step can do: reset, a sequencer step, a command, an illegal word,
nothing. -/
theorem everyStepKeepsTheInvariants : Obligations.EveryStepKeepsTheInvariants := by
  intro s t hs h
  rcases step_next h with
    ⟨-, rfl⟩ | ⟨-, hb, hseq⟩ | ⟨-, hb, -, i, hdec, hexec⟩ | ⟨-, -, -, -, rfl⟩ | ⟨-, -, -, rfl⟩
  · exact hs.sample.applyReset
  · exact sequenceFrame_keeps_inv hs.sample hb hseq
  · obtain ⟨hcommand, -⟩ := decodeCommand_ok hdec
    exact command_keeps_inv hs.sample hcommand hb hexec
  · exact hs.sample.respond .illegalCommand
  · exact hs.sample

/-- Settles O38: the reset state is idle, so only the context, the parameters and `POS` are to be looked at. -/
theorem resetMeetsTheInvariants : Obligations.ResetMeetsTheInvariants :=
  ⟨.of_idle rfl (by decide) (fun _ => rfl) (by decide) (by decide), fun hbusy => by cases hbusy⟩

/-! ## The position -/

/-- A sequencer step that leaves the frame in flight stalled, or emitted one bit and advanced. -/
theorem sequenceFrame_stays_busy {s t : State} (hb : s.busy = true) (ht : t.busy = true)
    (h : sequenceFrame s = .next t) : t = s ∨ ∃ b, t = (s.emit b).advance := by
  rcases sequenceFrame_next h hb with
    ⟨-, rfl⟩ | ⟨-, rfl⟩ | ⟨-, b, -, -, rfl⟩ | ⟨-, b, -, -, rfl⟩
  · simp at ht
  · exact .inl rfl
  · simp at ht
  · exact .inr ⟨b, rfl⟩

/-- While a frame stays in flight, the step was one of the sequencer: reset ends the frame, and commands are
taken on the idle block only. -/
theorem step_stays_busy {s t : State} (hb : s.busy = true) (ht : t.busy = true) (h : step s = .next t) :
    t = s.sample ∨ ∃ b, t = (s.sample.emit b).advance := by
  rcases step_next h with
    ⟨-, rfl⟩ | ⟨-, -, hseq⟩ | ⟨-, hidle, -⟩ | ⟨-, hidle, -⟩ | ⟨-, hidle, -⟩
  · simp at ht
  · exact sequenceFrame_stays_busy (s := s.sample) hb ht hseq
  all_goals simp [hb] at hidle

/-- Settles O50: the step stalled, or emitted one bit and advanced `POS` by one. -/
theorem positionAdvancesByOnePerEmittedBit : Obligations.PositionAdvancesByOnePerEmittedBit := by
  intro s t hb ht h
  rcases step_stays_busy hb ht h with rfl | ⟨b, rfl⟩
  · exact ⟨rfl, .inl rfl, sample_packet s⟩
  · refine ⟨?_, .inr rfl, by simp⟩
    simp only [advance_pos, emit_pos, sample_pos, advance_tx, emit_tx, sample_tx, List.length_append,
      List.length_singleton]
    omega

end Sys2Proof.Machine
end

section
/-! PROOFS. The output stream (20_memory.md R35, 45_framer.md R107): what each part of a step does to `TX`, and
that it grows by the offered bit exactly when the transport takes it. -/

namespace Sys2Proof.Machine

/-! ## The offered bit and the transport -/

theorem transportChoice_eq_accept_iff (p : Ports) :
    transportChoice p = .accept ↔ p.txReady = true ∧ p.txFault = false := by
  unfold transportChoice
  cases p.txFault <;> cases p.txReady <;> decide

/-- Sampling writes none of the registers that the offered bit is read from. -/
@[simp] theorem sample_offeredBit (s : State) : s.sample.offeredBit = s.offeredBit := rfl

/-- With a frame in flight `tx_bit` is the bit of the frame (45_framer.md R104). -/
theorem txBit_of_offeredBit {s : State} {b : Bool} (hb : s.busy = true) (h : s.offeredBit = some b) :
    s.txBit = b := by
  simp [State.txBit, hb, h]

/-! ## `TX` under a step -/

/-- No command emits a bit: it refuses, constructs the context or starts a frame. -/
theorem command_keeps_tx {i : Instr} {s t : State} (hc : i.isCommand = true) (hb : s.busy = false)
    (h : exec i s = .next t) : t.tx = s.tx := by
  rcases command_next hc hb h with
    ⟨e, rfl, -⟩ | ⟨mode, addr, -, -, -, rfl⟩ | ⟨_, _, _, -, -, -, -, hspd⟩ | ⟨idx, on, -, -, -, hfn⟩ |
    ⟨_, _, _, -, -, -, hacc⟩ | ⟨-, rfl⟩ | ⟨-, rfl⟩ | ⟨-, rfl⟩
  · exact respond_tx s e
  · rw [respond_tx, construct_tx]
  · rw [sendPacket_next hspd, startFrame_tx]
  · rw [sendPacket_next hfn, startFrame_tx, writeFn_tx]
  · rw [sendPacket_next hacc, startFrame_tx]
  all_goals exact startFrame_tx s _

/-- The sequencer emits the offered bit when the transport accepts it, and nothing on an abort or a stall. -/
theorem sequenceFrame_tx {s t : State} (hb : s.busy = true) (h : sequenceFrame s = .next t) :
    (transportChoice s.ports ≠ .accept ∧ t.tx = s.tx) ∨
    (transportChoice s.ports = .accept ∧ ∃ b, s.offeredBit = some b ∧ t.tx = s.tx ++ [b]) := by
  rcases sequenceFrame_next h hb with
    ⟨hfault, rfl⟩ | ⟨hstall, rfl⟩ | ⟨haccept, b, hbit, -, rfl⟩ | ⟨haccept, b, hbit, -, rfl⟩
  · exact .inl ⟨by simp [hfault], abort_tx s⟩
  · exact .inl ⟨by simp [hstall], rfl⟩
  · exact .inr ⟨haccept, b, hbit, by rw [finish_tx, emit_tx]⟩
  · exact .inr ⟨haccept, b, hbit, by rw [advance_tx, emit_tx]⟩

/-- Settles O49, by the cases of what a step can do: only a sequencer step takes a bit; under reset or on the
idle block the transport takes none. -/
theorem outputGrowsOnlyByTheTakenBit : Obligations.OutputGrowsOnlyByTheTakenBit := by
  intro s t h
  rcases step_next h with
    ⟨hrst, rfl⟩ | ⟨hrst, hb, hseq⟩ | ⟨-, hb, -, i, hdec, hexec⟩ | ⟨-, hb, -, -, rfl⟩ | ⟨-, hb, -, rfl⟩
  · exact .inl ⟨by rw [applyReset_tx, sample_tx], by simp [hrst]⟩
  · rcases sequenceFrame_tx (s := s.sample) hb hseq with ⟨hnot, htx⟩ | ⟨haccept, b, hbit, htx⟩
    · rw [sample_ports, Ne, transportChoice_eq_accept_iff] at hnot
      exact .inl ⟨htx, fun ⟨_, hready, hfault, _⟩ => hnot ⟨hready, hfault⟩⟩
    · rw [sample_ports, transportChoice_eq_accept_iff] at haccept
      obtain ⟨hready, hfault⟩ := haccept
      rw [sample_offeredBit] at hbit
      exact .inr ⟨hb, hready, hfault, hrst, by rw [htx, sample_tx, txBit_of_offeredBit hb hbit]⟩
  · obtain ⟨hcommand, -⟩ := decodeCommand_ok hdec
    exact .inl ⟨command_keeps_tx (s := s.sample) hcommand hb hexec, by simp [State.txValid, hb]⟩
  · exact .inl ⟨by rw [respond_tx, sample_tx], by simp [State.txValid, hb]⟩
  · exact .inl ⟨sample_tx s, by simp [State.txValid, hb]⟩

end Sys2Proof.Machine
end

section
/-! PROOFS. What a step answers, by the input ports it samples (10_state.md R24): the converse of `step_next`,
one equation for each of its cases. -/

namespace Sys2Proof.Machine

theorem step_of_rst {s : State} (hrst : s.nextPorts.rst = true) : step s = .next s.sample.applyReset := by
  simp [step, stepSampled, hrst]

theorem step_of_busy {s : State} (hrst : s.nextPorts.rst = false) (hb : s.busy = true) :
    step s = sequenceFrame s.sample := by
  simp [step, stepSampled, hrst, hb]

theorem step_of_command {s : State} {i : Instr} (hrst : s.nextPorts.rst = false) (hb : s.busy = false)
    (hv : s.nextPorts.cmdValid = true) (hd : decodeCommand s.nextPorts.cmd = .ok i) :
    step s = exec i s.sample := by
  simp [step, stepSampled, State.presented, hrst, hb, hv, hd]

theorem step_of_illegal {s : State} {e : DecodeError} (hrst : s.nextPorts.rst = false) (hb : s.busy = false)
    (hv : s.nextPorts.cmdValid = true) (hd : decodeCommand s.nextPorts.cmd = .error e) :
    step s = .next (s.sample.respond .illegalCommand) := by
  simp [step, stepSampled, State.presented, raise, hrst, hb, hv, hd]

theorem step_of_no_command {s : State} (hrst : s.nextPorts.rst = false) (hb : s.busy = false)
    (hv : s.nextPorts.cmdValid = false) : step s = .next s.sample := by
  simp [step, stepSampled, hrst, hb, hv]

end Sys2Proof.Machine
end

section
/-! PROOFS. The command words and the packet bytes (30_encoding.md R40 to R50): which format an opcode selects,
what each format's decoder reads from the bits of its encoding and back, and which words are illegal. -/

namespace Sys2Proof

/-! ## The opcode map (30_encoding.md R46) -/

theorem opcode_cases (op : BitVec 4) :
    op = 1#4 ∨ op = 2#4 ∨ op = 3#4 ∨ op = 4#4 ∨ op = 5#4 ∨ op = 6#4 ∨ op = 7#4 ∨ (op = 0#4 ∨ 8#4 ≤ op) := by
  revert op
  decide

theorem decodeCommand_eq_decodeLinit {w : CommandWord} (hop : w.extractLsb' 28 4 = 1#4) :
    decodeCommand w = decodeLinit w := by
  simp [decodeCommand, hop]

theorem decodeCommand_eq_decodeSpd {w : CommandWord} (hop : w.extractLsb' 28 4 = 2#4) :
    decodeCommand w = decodeSpd w := by
  simp [decodeCommand, hop]

theorem decodeCommand_eq_decodeFn {w : CommandWord} (hop : w.extractLsb' 28 4 = 3#4) :
    decodeCommand w = decodeFn w := by
  simp [decodeCommand, hop]

theorem decodeCommand_eq_decodeAcc {w : CommandWord} (hop : w.extractLsb' 28 4 = 4#4) :
    decodeCommand w = decodeAcc w := by
  simp [decodeCommand, hop]

theorem decodeCommand_eq_rst {w : CommandWord} (hop : w.extractLsb' 28 4 = 5#4) :
    decodeCommand w = decodeBroadcast .rst w := by
  simp [decodeCommand, hop]

theorem decodeCommand_eq_idle {w : CommandWord} (hop : w.extractLsb' 28 4 = 6#4) :
    decodeCommand w = decodeBroadcast .idle w := by
  simp [decodeCommand, hop]

theorem decodeCommand_eq_estop {w : CommandWord} (hop : w.extractLsb' 28 4 = 7#4) :
    decodeCommand w = decodeBroadcast .estop w := by
  simp [decodeCommand, hop]

theorem decodeCommand_reserved {w : CommandWord} (hop : w.extractLsb' 28 4 = 0#4 ∨ 8#4 ≤ w.extractLsb' 28 4) :
    decodeCommand w = .error .reservedOpcode := by
  have hmap : ∀ op : BitVec 4, op = 0#4 ∨ 8#4 ≤ op → op.toNat = 0 ∨ 8 ≤ op.toNat := by decide
  unfold decodeCommand
  split
  case h_8 => rfl
  all_goals
    have := hmap _ hop
    omega

/-! ## From the fields to the word: every format's decoder reads its encoding back (R41 to R45) -/

theorem decodeCommand_linit_word {mode : BitVec 2} (hmode : mode ≠ 3#2) (addr : BitVec 16) :
    decodeCommand (1#4 ++ 0#2 ++ mode ++ 0#8 ++ addr) = .ok (.linit mode addr) := by
  rw [decodeCommand_eq_decodeLinit (by simp (disch := decide) only [BitVec.extractLsb'_append_eq_of_le]; rfl)]
  simp (disch := decide) only [decodeLinit, BitVec.extractLsb'_append_eq_of_le,
    BitVec.extractLsb'_append_eq_of_add_le, Nat.reduceSub]
  simp [hmode]

theorem decodeCommand_spd_word (dir : Bool) (speed : BitVec 8) :
    decodeCommand (2#4 ++ 0#3 ++ BitVec.ofBool dir ++ speed ++ 0#16) = .ok (.spd dir speed) := by
  rw [decodeCommand_eq_decodeSpd (by simp (disch := decide) only [BitVec.extractLsb'_append_eq_of_le]; rfl)]
  simp (disch := decide) only [decodeSpd, BitVec.extractLsb'_append_eq_of_le,
    BitVec.extractLsb'_append_eq_of_add_le, BitVec.getLsbD_append, Nat.reduceSub, Nat.reduceLT, ↓reduceIte]
  simp

theorem decodeCommand_fn_word (idx : BitVec 4) (on : Bool) :
    decodeCommand (3#4 ++ idx ++ 0#7 ++ BitVec.ofBool on ++ 0#16) = .ok (.fn idx on) := by
  rw [decodeCommand_eq_decodeFn (by simp (disch := decide) only [BitVec.extractLsb'_append_eq_of_le]; rfl)]
  simp (disch := decide) only [decodeFn, BitVec.extractLsb'_append_eq_of_le,
    BitVec.extractLsb'_append_eq_of_add_le, BitVec.getLsbD_append, Nat.reduceSub, Nat.reduceLT, ↓reduceIte]
  simp

theorem decodeCommand_acc_word (sub : BitVec 4) (active : Bool) (addr : BitVec 16) :
    decodeCommand (4#4 ++ sub ++ 0#7 ++ BitVec.ofBool active ++ addr) = .ok (.acc sub active addr) := by
  rw [decodeCommand_eq_decodeAcc (by simp (disch := decide) only [BitVec.extractLsb'_append_eq_of_le]; rfl)]
  simp (disch := decide) only [decodeAcc, BitVec.extractLsb'_append_eq_of_le,
    BitVec.extractLsb'_append_eq_of_add_le, BitVec.getLsbD_append, Nat.reduceSub, Nat.reduceLT, ↓reduceIte]
  simp

/-! ## From the word to the fields: a word that a format accepts is the encoding of what is read -/

theorem ofBool_getLsbD_eq_extractLsb' {n : Nat} (x : BitVec n) (i : Nat) :
    BitVec.ofBool (x.getLsbD i) = x.extractLsb' i 1 := by
  rw [BitVec.getLsbD_eq_extractLsb']
  generalize x.extractLsb' i 1 = b
  revert b
  decide

theorem encode_of_decodeLinit {w : CommandWord} {i : Instr} (hop : w.extractLsb' 28 4 = 1#4)
    (h : decodeLinit w = .ok i) : encode i = .command w := by
  have hfields : w.extractLsb' 28 4 ++ w.extractLsb' 26 2 ++ w.extractLsb' 24 2 ++ w.extractLsb' 16 8 ++
      w.extractLsb' 0 16 = w := by
    simp (disch := decide) only [BitVec.extractLsb'_append_extractLsb'_eq_extractLsb']
    exact BitVec.extractLsb'_eq_self
  unfold decodeLinit at h
  split at h
  next hzero =>
    obtain ⟨h26, h16⟩ := hzero
    split at h
    · cases h
    · cases h
      rw [hop, h26, h16] at hfields
      rw [encode, hfields]
  next => cases h

theorem encode_of_decodeSpd {w : CommandWord} {i : Instr} (hop : w.extractLsb' 28 4 = 2#4)
    (h : decodeSpd w = .ok i) : encode i = .command w := by
  have hfields : w.extractLsb' 28 4 ++ w.extractLsb' 25 3 ++ BitVec.ofBool (w.getLsbD 24) ++
      w.extractLsb' 16 8 ++ w.extractLsb' 0 16 = w := by
    simp (disch := decide) only [ofBool_getLsbD_eq_extractLsb',
      BitVec.extractLsb'_append_extractLsb'_eq_extractLsb']
    exact BitVec.extractLsb'_eq_self
  unfold decodeSpd at h
  split at h
  next hzero =>
    obtain ⟨h25, h0⟩ := hzero
    cases h
    rw [hop, h25, h0] at hfields
    rw [encode, hfields]
  next => cases h

/-- The fields of formats F and A, which differ only in what bits 15:0 may hold. -/
theorem fn_acc_fields (w : CommandWord) :
    w.extractLsb' 28 4 ++ w.extractLsb' 24 4 ++ w.extractLsb' 17 7 ++ BitVec.ofBool (w.getLsbD 16) ++
      w.extractLsb' 0 16 = w := by
  simp (disch := decide) only [ofBool_getLsbD_eq_extractLsb',
    BitVec.extractLsb'_append_extractLsb'_eq_extractLsb']
  exact BitVec.extractLsb'_eq_self

theorem encode_of_decodeFn {w : CommandWord} {i : Instr} (hop : w.extractLsb' 28 4 = 3#4)
    (h : decodeFn w = .ok i) : encode i = .command w := by
  have hfields := fn_acc_fields w
  unfold decodeFn at h
  split at h
  next hzero =>
    obtain ⟨h17, h0⟩ := hzero
    cases h
    rw [hop, h17, h0] at hfields
    rw [encode, hfields]
  next => cases h

theorem encode_of_decodeAcc {w : CommandWord} {i : Instr} (hop : w.extractLsb' 28 4 = 4#4)
    (h : decodeAcc w = .ok i) : encode i = .command w := by
  have hfields := fn_acc_fields w
  unfold decodeAcc at h
  split at h
  next h17 =>
    cases h
    rw [hop, h17] at hfields
    rw [encode, hfields]
  next => cases h

/-- Format B: the opcode and 28 zero bits are the whole word. -/
theorem broadcast_word {w : CommandWord} {op : BitVec 4} {i j : Instr} (hop : w.extractLsb' 28 4 = op)
    (h : decodeBroadcast j w = .ok i) : i = j ∧ op ++ 0#28 = w := by
  have hfields : w.extractLsb' 28 4 ++ w.extractLsb' 0 28 = w := by
    simp (disch := decide) only [BitVec.extractLsb'_append_extractLsb'_eq_extractLsb']
    exact BitVec.extractLsb'_eq_self
  unfold decodeBroadcast at h
  split at h
  next h0 =>
    cases h
    rw [hop, h0] at hfields
    exact ⟨rfl, hfields⟩
  next => cases h

theorem encode_of_decodeCommand {w : CommandWord} {i : Instr} (h : decodeCommand w = .ok i) :
    encode i = .command w := by
  rcases opcode_cases (w.extractLsb' 28 4) with hop | hop | hop | hop | hop | hop | hop | hop
  · exact encode_of_decodeLinit hop (decodeCommand_eq_decodeLinit hop ▸ h)
  · exact encode_of_decodeSpd hop (decodeCommand_eq_decodeSpd hop ▸ h)
  · exact encode_of_decodeFn hop (decodeCommand_eq_decodeFn hop ▸ h)
  · exact encode_of_decodeAcc hop (decodeCommand_eq_decodeAcc hop ▸ h)
  · obtain ⟨rfl, rfl⟩ := broadcast_word hop (decodeCommand_eq_rst hop ▸ h); rfl
  · obtain ⟨rfl, rfl⟩ := broadcast_word hop (decodeCommand_eq_idle hop ▸ h); rfl
  · obtain ⟨rfl, rfl⟩ := broadcast_word hop (decodeCommand_eq_estop hop ▸ h); rfl
  · rw [decodeCommand_reserved hop] at h
    cases h

/-! ## The illegal words (R48) -/

theorem decodeLinit_error_iff (w : CommandWord) : (∃ e, decodeLinit w = .error e) ↔
    w.extractLsb' 26 2 ≠ 0#2 ∨ w.extractLsb' 16 8 ≠ 0#8 ∨ w.extractLsb' 24 2 = 3#2 := by
  unfold decodeLinit
  split
  next hzero =>
    split
    next h3 => simp [h3]
    next h3 => simp [hzero, h3]
  next hzero => exact ⟨fun _ => by tauto, fun _ => ⟨_, rfl⟩⟩

theorem decodeSpd_error_iff (w : CommandWord) : (∃ e, decodeSpd w = .error e) ↔
    w.extractLsb' 25 3 ≠ 0#3 ∨ w.extractLsb' 0 16 ≠ 0#16 := by
  unfold decodeSpd
  split
  next hzero => simp [hzero]
  next hzero => exact ⟨fun _ => by tauto, fun _ => ⟨_, rfl⟩⟩

theorem decodeFn_error_iff (w : CommandWord) : (∃ e, decodeFn w = .error e) ↔
    w.extractLsb' 17 7 ≠ 0#7 ∨ w.extractLsb' 0 16 ≠ 0#16 := by
  unfold decodeFn
  split
  next hzero => simp [hzero]
  next hzero => exact ⟨fun _ => by tauto, fun _ => ⟨_, rfl⟩⟩

theorem decodeAcc_error_iff (w : CommandWord) : (∃ e, decodeAcc w = .error e) ↔
    w.extractLsb' 17 7 ≠ 0#7 := by
  unfold decodeAcc
  split
  next hzero => simp [hzero]
  next hzero => simp [hzero]

theorem decodeBroadcast_error_iff (i : Instr) (w : CommandWord) : (∃ e, decodeBroadcast i w = .error e) ↔
    w.extractLsb' 0 28 ≠ 0#28 := by
  unfold decodeBroadcast
  split
  next hzero => simp [hzero]
  next hzero => simp [hzero]

/-- The decode is total: a word is illegal or one of the seven commands. -/
theorem decodeCommand_total (w : CommandWord) :
    (∃ e, decodeCommand w = .error e) ∨ ∃ i, decodeCommand w = .ok i ∧ i.isCommand = true := by
  cases hd : decodeCommand w with
  | error e => exact .inl ⟨e, rfl⟩
  | ok i =>
    obtain ⟨hcommand, -⟩ := Machine.decodeCommand_ok hd
    exact .inr ⟨i, rfl, hcommand⟩

/-! ## The packet bytes (R50): every row's decoder reads its pattern back -/

theorem decodeLocoaddr_pattern {a : BitVec 7} (ha : a ≠ 0#7) :
    decodeLocoaddr (0#1 ++ a) = .ok (.dccLocoaddr a) := by
  simp (disch := decide) only [decodeLocoaddr, BitVec.extractLsb'_append_eq_right,
    BitVec.getLsbD_append, Nat.reduceSub, Nat.reduceLT, ↓reduceIte]
  simp [ha]

theorem decodeAccB1_pattern (a : BitVec 6) : decodeAccB1 (0b10#2 ++ a) = .ok (.dccAccB1 a) := by
  simp only [decodeAccB1, BitVec.extractLsb'_append_eq_left, BitVec.extractLsb'_append_eq_right, ↓reduceIte]

theorem decodeAccB2_pattern (h : BitVec 3) (c : Bool) (s : BitVec 3) :
    decodeAccB2 (1#1 ++ h ++ BitVec.ofBool c ++ s) = .ok (.dccAccB2 h c s) := by
  simp (disch := decide) only [decodeAccB2, BitVec.extractLsb'_append_eq_of_le,
    BitVec.extractLsb'_append_eq_of_add_le, BitVec.getLsbD_append, Nat.reduceSub, Nat.reduceLT, ↓reduceIte]
  simp

theorem decodeSpeed128B2_pattern (d : Bool) (f : BitVec 7) :
    decodeSpeed128B2 (BitVec.ofBool d ++ f) = .ok (.dccSpeed128B2 d f) := by
  simp only [decodeSpeed128B2, BitVec.extractLsb'_append_eq_right, BitVec.getLsbD_append, Nat.reduceSub,
    Nat.reduceLT, ↓reduceIte]
  simp

theorem decodeSpeed28_pattern (d c : Bool) (r : BitVec 4) :
    decodeSpeed28 (0b01#2 ++ BitVec.ofBool d ++ BitVec.ofBool c ++ r) = .ok (.dccSpeed28 d c r) := by
  simp (disch := decide) only [decodeSpeed28, BitVec.extractLsb'_append_eq_of_le,
    BitVec.extractLsb'_append_eq_of_add_le, BitVec.getLsbD_append, Nat.reduceSub, Nat.reduceLT, ↓reduceIte]
  simp

theorem decodeFunctionGroup_group1 (f : BitVec 5) : decodeFunctionGroup (0b100#3 ++ f) = .ok (.dccFnG1 f) := by
  simp only [decodeFunctionGroup, BitVec.extractLsb'_append_eq_left, BitVec.extractLsb'_append_eq_right,
    ↓reduceIte]

/-- Both halves of group 2 open with `101`, the bits that rule out group 1. -/
theorem decodeFunctionGroup_group2 {p : BitVec 4} (hp : p.extractLsb' 1 3 ≠ 0b100#3) (f : BitVec 4) :
    decodeFunctionGroup (p ++ f) =
      if p = 0b1011#4 then .ok (.dccFnG2u f)
      else if p = 0b1010#4 then .ok (.dccFnG2l f)
      else .error .noSuchRow := by
  simp (disch := decide) only [decodeFunctionGroup, BitVec.extractLsb'_append_eq_of_le,
    BitVec.extractLsb'_append_eq_right, Nat.reduceSub, if_neg hp]
  simp

/-- Every well-formed row decodes from its bits in its place. -/
theorem decodeAt_place_encode {i : Instr} (hwf : i.wellFormed = true) : decodeAt i.place (encode i) = .ok i := by
  cases i with
  | linit mode addr => exact decodeCommand_linit_word (by simpa [Instr.wellFormed] using hwf) addr
  | spd dir speed => exact decodeCommand_spd_word dir speed
  | fn idx on => exact decodeCommand_fn_word idx on
  | acc sub active addr => exact decodeCommand_acc_word sub active addr
  | rst => decide
  | idle => decide
  | estop => decide
  | dccLocoaddr a => exact decodeLocoaddr_pattern (by simpa [Instr.wellFormed] using hwf)
  | dccAccB1 a => exact decodeAccB1_pattern a
  | dccAccB2 h c s => exact decodeAccB2_pattern h c s
  | dccSpeed128B1 => rfl
  | dccSpeed128B2 d f => exact decodeSpeed128B2_pattern d f
  | dccSpeed28 d c r => exact decodeSpeed28_pattern d c r
  | dccFnG1 f => exact decodeFunctionGroup_group1 f
  | dccFnG2u f => exact decodeFunctionGroup_group2 (by decide) f
  | dccFnG2l f => exact decodeFunctionGroup_group2 (by decide) f
  | dccChecksum x => rfl
  | dccPktReset => decide
  | dccPktIdle => decide
  | dccPktStopall => decide

/-! ## The obligations -/

/-- Settles O2, row by row; the other places of an address byte and of a checksum byte read it with the same
decoder. -/
theorem wellFormedInstructionDecodesFromItsEncoding :
    Obligations.WellFormedInstructionDecodesFromItsEncoding := by
  refine ⟨fun i => decodeAt_place_encode, ?_, ?_⟩
  · rintro shape a ha (rfl | rfl | rfl)
    all_goals exact decodeLocoaddr_pattern ha
  · intro x
    refine ⟨rfl, fun shape hshape => ?_⟩
    cases shape with
    | speed128 => exact absurd rfl hshape
    | speed28 => rfl
    | functionGroup => rfl
    | accessory => rfl
    | broadcast => rfl

/-- Settles O3: the fields that a format reads and the bits it checks are together the whole word. -/
theorem legalWordIsTheEncodingOfItsCommand : Obligations.LegalWordIsTheEncodingOfItsCommand := by
  intro w i h
  obtain ⟨hcommand, hwf⟩ := Machine.decodeCommand_ok h
  exact ⟨hwf, hcommand, encode_of_decodeCommand h⟩

/-- Settles O4: the opcode selects the format, and each format refuses exactly its own causes. -/
theorem illegalWordsAreThoseOfTheRuleAndDoNothing : Obligations.IllegalWordsAreThoseOfTheRuleAndDoNothing := by
  refine ⟨fun w => ?_, decodeCommand_total, fun s e => Machine.step_of_illegal⟩
  rcases opcode_cases (w.extractLsb' 28 4) with hop | hop | hop | hop | hop | hop | hop | hop
  · rw [decodeCommand_eq_decodeLinit hop, decodeLinit_error_iff]; simp [hop]
  · rw [decodeCommand_eq_decodeSpd hop, decodeSpd_error_iff]; simp [hop]
  · rw [decodeCommand_eq_decodeFn hop, decodeFn_error_iff]; simp [hop]
  · rw [decodeCommand_eq_decodeAcc hop, decodeAcc_error_iff]; simp [hop]
  · rw [decodeCommand_eq_rst hop, decodeBroadcast_error_iff]; simp [hop]
  · rw [decodeCommand_eq_idle hop, decodeBroadcast_error_iff]; simp [hop]
  · rw [decodeCommand_eq_estop hop, decodeBroadcast_error_iff]; simp [hop]
  · exact ⟨fun _ => .inl hop, fun _ => ⟨_, decodeCommand_reserved hop⟩⟩

/-- Settles O1, by evaluating the decoder on each of the seventeen words. -/
theorem decodeReadsTheExampleWords : Obligations.DecodeReadsTheExampleWords := by
  unfold Obligations.DecodeReadsTheExampleWords
  decide

end Sys2Proof
end
section
/-! PROOFS. Nothing ordinary stops the machine (30_encoding.md R48, 60_exceptions.md R131): under the invariants the
sequencer always has a bit to offer and every command has a meaning. -/

namespace Sys2Proof.Machine

/-! ## The offered bit -/

theorem PacketBuffer.get?_of_lt (buf : PacketBuffer) {k : Nat} (hk : k < 4) : ∃ b, buf.get? k = some b := by
  match k, hk with
  | 0, _ => exact ⟨_, rfl⟩
  | 1, _ => exact ⟨_, rfl⟩
  | 2, _ => exact ⟨_, rfl⟩
  | 3, _ => exact ⟨_, rfl⟩

/-- `BitAt` is defined up to the stop bit of a frame of at most four bytes (45_framer.md R103). -/
theorem bitAt_defined (buf : PacketBuffer) {P nb pos : Nat} (hnb : nb ≤ 4) (hpos : pos ≤ P + 9 * nb) :
    ∃ b, bitAt P buf nb pos = some b := by
  unfold bitAt
  split
  · exact ⟨_, rfl⟩
  · dsimp only
    split
    · exact ⟨_, rfl⟩
    · rw [if_neg (by omega)]
      obtain ⟨b, hb⟩ := buf.get?_of_lt (k := (pos - P) / 9) (by omega)
      exact ⟨_, by rw [hb, Option.map_some]⟩

theorem Inv.nb_le_four {s : State} (hs : Inv s) (hb : s.busy = true) : s.nb.toNat ≤ 4 := by
  rcases hs.frame_length hb with h | h <;> simp [h]

theorem Inv.offeredBit_defined {s : State} (hs : Inv s) (hb : s.busy = true) : ∃ b, s.offeredBit = some b :=
  bitAt_defined s.buf (hs.nb_le_four hb) (hs.frame_pos hb)

/-! ## The sequencer and the commands answer a next state -/

/-- With a bit to offer, every choice of the transport is answered. -/
theorem offerBit_some_answers (n : Nat) (b : Bool) (s : State) : ∃ t, offerBit n (some b) s = .next t := by
  cases hb : s.busy with
  | false => exact ⟨_, offerBit_idle hb n _⟩
  | true =>
    cases hc : transportChoice s.ports with
    | accept => exact ⟨_, offerBit_accept hb hc n b⟩
    | stall => exact ⟨_, offerBit_stall hb hc n _⟩
    | fault => exact ⟨_, offerBit_fault hb hc n _⟩

theorem sequenceFrame_answers {s : State} (hs : Inv s) (hb : s.busy = true) : ∃ t, sequenceFrame s = .next t := by
  obtain ⟨b, hbit⟩ := hs.offeredBit_defined hb
  rw [sequenceFrame, hbit]
  exact offerBit_some_answers _ b s

/-- Only the value 3, which is never held, has no step mode (10_state.md R12). -/
theorem stepModeOf_defined {m : BitVec 2} (hm : m ≠ 3#2) : ∃ k, stepModeOf m = some k := by
  rw [← Option.isSome_iff_exists]
  revert m
  decide

theorem whenReady_answers (s : State) {k : Result} (hk : ∃ t, k = .next t) : ∃ t, s.whenReady k = .next t := by
  obtain ⟨t, rfl⟩ := hk
  cases hb : s.busy with
  | false => exact ⟨t, whenReady_ready hb _⟩
  | true => exact ⟨s, whenReady_busy hb _⟩

/-- Every command is answered: `SPD` because the mode held has a name, `LINIT` because the switch of U7 is at its
default (log 14). -/
theorem command_answers {i : Instr} {s : State} (hc : i.isCommand = true) (hmode : s.mode ≠ 3#2)
    (hswitch : s.params.mode14 = .likeMode28) : ∃ t, exec i s = .next t := by
  cases i with
  | linit mode addr =>
    refine whenReady_answers s ?_
    simp only [hswitch, reduceCtorEq, and_false, if_false]
    split
    · exact ⟨_, rfl⟩
    · split <;> exact ⟨_, rfl⟩
  | spd dir speed =>
    refine whenReady_answers s ?_
    obtain ⟨k, hk⟩ := stepModeOf_defined hmode
    rw [hk]
    dsimp only
    split
    · exact ⟨_, rfl⟩
    · split <;> exact ⟨_, rfl⟩
  | fn idx on =>
    refine whenReady_answers s ?_
    split
    · exact ⟨_, rfl⟩
    · split <;> exact ⟨_, rfl⟩
  | acc sub active addr =>
    refine whenReady_answers s ?_
    split
    · split <;> exact ⟨_, rfl⟩
    · exact ⟨_, rfl⟩
  | rst => exact whenReady_answers s ⟨_, rfl⟩
  | idle => exact whenReady_answers s ⟨_, rfl⟩
  | estop => exact whenReady_answers s ⟨_, rfl⟩
  | _ => simp [Instr.isCommand] at hc

/-- Settles O40, by the input ports the step samples. -/
theorem noStepStopsFromTheInvariants : Obligations.NoStepStopsFromTheInvariants := by
  intro s hs hswitch
  unfold SafeStep
  cases hrst : s.nextPorts.rst with
  | true => exact ⟨_, step_of_rst hrst⟩
  | false =>
    cases hb : s.busy with
    | true => rw [step_of_busy hrst hb]; exact sequenceFrame_answers hs.sample hb
    | false =>
      cases hv : s.nextPorts.cmdValid with
      | false => exact ⟨_, step_of_no_command hrst hb hv⟩
      | true =>
        cases hd : decodeCommand s.nextPorts.cmd with
        | error e => exact ⟨_, step_of_illegal hrst hb hv hd⟩
        | ok i =>
          obtain ⟨hcommand, -⟩ := decodeCommand_ok hd
          rw [step_of_command hrst hb hv hd]
          exact command_answers hcommand hs.mode_held hswitch

end Sys2Proof.Machine
end

section
/-! PROOFS. The packets in flight (30_encoding.md R49, R51): the bytes of the commands have the shapes of the rule,
a packet of two or three data bytes and its checksum is one of the seven shapes, and every step keeps it so. -/

namespace Sys2Proof.Machine

/-! ## The leading bits of the bytes that the codecs build -/

theorem byteOfBits_top2 (b7 b6 b5 b4 b3 b2 b1 b0 : Bool) :
    (byteOfBits b7 b6 b5 b4 b3 b2 b1 b0).extractLsb' 6 2 = BitVec.ofBool b7 ++ BitVec.ofBool b6 := by
  simp (disch := decide) only [byteOfBits, BitVec.extractLsb'_append_eq_of_le, Nat.reduceSub]
  exact BitVec.extractLsb'_eq_self

theorem byteOfBits_top3 (b7 b6 b5 b4 b3 b2 b1 b0 : Bool) :
    (byteOfBits b7 b6 b5 b4 b3 b2 b1 b0).extractLsb' 5 3 =
      BitVec.ofBool b7 ++ BitVec.ofBool b6 ++ BitVec.ofBool b5 := by
  simp (disch := decide) only [byteOfBits, BitVec.extractLsb'_append_eq_of_le, Nat.reduceSub]
  exact BitVec.extractLsb'_eq_self

theorem byteOfBits_top4 (b7 b6 b5 b4 b3 b2 b1 b0 : Bool) :
    (byteOfBits b7 b6 b5 b4 b3 b2 b1 b0).extractLsb' 4 4 =
      BitVec.ofBool b7 ++ BitVec.ofBool b6 ++ BitVec.ofBool b5 ++ BitVec.ofBool b4 := by
  simp (disch := decide) only [byteOfBits, BitVec.extractLsb'_append_eq_of_le, Nat.reduceSub]
  exact BitVec.extractLsb'_eq_self

/-- The address byte of a constructed loco (40_address.md R60). -/
theorem isLocoByte_locoAddrByte {a : BitVec 7} (ha : a ≠ 0#7) : isLocoByte (locoAddrByte a) = true := by
  revert a
  decide

/-- `Speed28` opens with `01` (41_speed.md R72). -/
theorem speed28_top2 (speed : Int) (dir : Bool) : (speed28 speed dir).extractLsb' 6 2 = 0b01#2 :=
  byteOfBits_top2 ..

/-- `AccByte1` opens with `10` (40_address.md R61). -/
theorem accByte1_top2 (a : BitVec 16) : (accByte1 a).extractLsb' 6 2 = 0b10#2 := byteOfBits_top2 ..

/-- `AccByte2` opens with `1` (40_address.md R62). -/
theorem accByte2_top (a : BitVec 16) (c : Bool) (sub : BitVec 4) : (accByte2 a c sub).getLsbD 7 = true := by
  obtain ⟨-, -, -, -, -, -, -, h7⟩ := byteOfBits_getLsbD true (!a.getLsbD 8) (!a.getLsbD 7) (!a.getLsbD 6) c
    (sub.getLsbD 2) (sub.getLsbD 1) (sub.getLsbD 0)
  exact h7

/-- A function-group byte opens with the bits of its group, in both layouts (42_function.md R82). -/
theorem fnByte_leading_bits (layout : FnLayout) (g : FnGroup) (fn : BitVec 13) :
    (fnByte layout g fn).extractLsb' 5 3 = 0b100#3 ∨ (fnByte layout g fn).extractLsb' 4 4 = 0b1011#4 ∨
      (fnByte layout g fn).extractLsb' 4 4 = 0b1010#4 := by
  cases g with
  | group1 => cases layout <;> exact .inl (byteOfBits_top3 ..)
  | group2Upper => cases layout <;> exact .inr (.inl (byteOfBits_top4 ..))
  | group2Lower => cases layout <;> exact .inr (.inr (byteOfBits_top4 ..))

/-! ## The data bytes of the packet commands have a legal shape -/

theorem legalData_spd {a : BitVec 7} (ha : a ≠ 0#7) (m : StepMode) (speed : Int) (dir : Bool) :
    legalData (locoAddrByte a :: speedBytes m speed dir) = true := by
  cases m with
  | mode128 => simp [speedBytes, speed128, legalData, isLocoByte_locoAddrByte ha]
  | mode28 => simp [speedBytes, legalData, isLocoByte_locoAddrByte ha, speed28_top2]
  | mode14 => simp [speedBytes, legalData, isLocoByte_locoAddrByte ha, speed28_top2]

theorem legalData_fn {a : BitVec 7} (ha : a ≠ 0#7) (layout : FnLayout) (g : FnGroup) (fn : BitVec 13) :
    legalData [locoAddrByte a, fnByte layout g fn] = true := by
  rcases fnByte_leading_bits layout g fn with h | h | h <;> simp [legalData, isLocoByte_locoAddrByte ha, h]

theorem legalData_acc (addr : BitVec 16) (active : Bool) (sub : BitVec 4) :
    legalData [accByte1 addr, accByte2 addr active sub] = true := by
  simp [legalData, accByte1_top2, accByte2_top]

theorem length_of_legalData {data : List Byte} (h : legalData data = true) :
    data.length = 2 ∨ data.length = 3 := by
  unfold legalData at h
  split at h
  · exact .inl rfl
  · exact .inr rfl
  · cases h

/-! ## Legal packets under the state operations -/

/-- The checksum law of the shapes: legal data bytes and their checksum are a legal packet (44_checksum.md R97). -/
theorem legalPacket_of_legalData {data : List Byte} (h : legalData data = true) :
    legalPacket (data ++ [xorBytes data]) = true := by
  simp [legalPacket, h]

theorem PacketInFlightLegal.of_idle {s : State} (hb : s.busy = false) : PacketInFlightLegal s := by
  intro hbusy
  rw [hb] at hbusy
  cases hbusy

/-- `BUSY` and the used bytes are all that is read. -/
theorem PacketInFlightLegal.congr {s t : State} (hs : PacketInFlightLegal s) (hb : t.busy = s.busy)
    (hp : t.packet = s.packet) : PacketInFlightLegal t := by
  intro hbusy
  rw [hp]
  exact hs (hb ▸ hbusy)

theorem PacketInFlightLegal.startFrame (s : State) {bytes : List Byte} (hlen : bytes.length = 3 ∨ bytes.length = 4)
    (h : legalPacket bytes = true) : PacketInFlightLegal (s.startFrame bytes) := by
  intro _
  rw [startFrame_packet s hlen, h]

theorem PacketInFlightLegal.sendPacket {s t : State} {data : List Byte} (hdata : legalData data = true)
    (h : sendPacket data s = .next t) : PacketInFlightLegal t := by
  rw [sendPacket_next h]
  have hlen := length_of_legalData hdata
  exact .startFrame s (by simpa using hlen) (legalPacket_of_legalData hdata)

/-! ## Legal packets under a step -/

theorem command_keeps_packetLegal {i : Instr} {s t : State} (hc : i.isCommand = true) (hb : s.busy = false)
    (h : exec i s = .next t) : PacketInFlightLegal t := by
  rcases command_next hc hb h with
    ⟨e, rfl, -⟩ | ⟨mode, addr, -, -, -, rfl⟩ | ⟨dir, speed, m, -, hloco, -, -, hspd⟩ |
    ⟨idx, on, -, hloco, -, hfn⟩ | ⟨sub, active, addr, -, -, -, hacc⟩ | ⟨-, rfl⟩ | ⟨-, rfl⟩ | ⟨-, rfl⟩
  · exact .of_idle hb
  · exact .of_idle hb
  · exact .sendPacket (legalData_spd hloco m speed.toInt dir) hspd
  · exact .sendPacket (legalData_fn hloco _ _ _) hfn
  · exact .sendPacket (legalData_acc addr active sub) hacc
  all_goals exact .startFrame s (.inl rfl) (by decide)

theorem sequenceFrame_keeps_packetLegal {s t : State} (hs : PacketInFlightLegal s) (hb : s.busy = true)
    (h : sequenceFrame s = .next t) : PacketInFlightLegal t := by
  rcases sequenceFrame_next h hb with
    ⟨-, rfl⟩ | ⟨-, rfl⟩ | ⟨-, b, -, -, rfl⟩ | ⟨-, b, -, -, rfl⟩
  · exact .of_idle (abort_busy s)
  · exact hs
  · exact .of_idle (finish_busy _)
  · exact hs.congr rfl (by rw [advance_packet, emit_packet])

/-- Settles O39, by the cases of what a step can do: only a command starts a frame, and the sequencer keeps the
bytes of the frame in flight. -/
theorem everyStepKeepsPacketsLegal : Obligations.EveryStepKeepsPacketsLegal := by
  intro s t hs h
  rcases step_next h with
    ⟨-, rfl⟩ | ⟨-, hb, hseq⟩ | ⟨-, hb, -, i, hdec, hexec⟩ | ⟨-, hb, -, -, rfl⟩ | ⟨-, hb, -, rfl⟩
  · exact .of_idle (applyReset_busy _)
  · exact sequenceFrame_keeps_packetLegal (hs.congr (sample_busy s) (sample_packet s)) hb hseq
  · obtain ⟨hcommand, -⟩ := decodeCommand_ok hdec
    exact command_keeps_packetLegal (s := s.sample) hcommand hb hexec
  · exact .of_idle hb
  · exact .of_idle hb

/-! ## The number of bytes (30_encoding.md R51) -/

/-- A frame of `SPD` has four bytes exactly in 128-step mode (41_speed.md R73, R74, R75). -/
theorem speedBytes_nb (s : State) (m : StepMode) (speed : Int) (dir : Bool) {t : State}
    (h : sendPacket (locoAddrByte s.laddr :: speedBytes m speed dir) s = .next t) :
    t.nb = if m = .mode128 then 4#3 else 3#3 := by
  rw [sendPacket_next h]
  cases m <;> rfl

/-- Settles O24, by what a command can do on the idle block; a row of the output language leaves the block
idle. -/
theorem fourBytesExactlyForSpeed128 : Obligations.FourBytesExactlyForSpeed128 := by
  intro i s t hb h ht
  cases hc : i.isCommand with
  | false =>
    obtain ⟨n, bit, hoffer⟩ := outputRow_offers hc s
    rw [hoffer, offerBit_idle hb] at h
    cases h
    simp [hb] at ht
  | true =>
    rcases command_next hc hb h with
      ⟨e, rfl, -⟩ | ⟨mode, addr, -, -, -, rfl⟩ | ⟨dir, speed, m, rfl, -, hm, -, hspd⟩ |
      ⟨idx, on, rfl, -, -, hfn⟩ | ⟨sub, active, addr, rfl, -, -, hacc⟩ | ⟨rfl, rfl⟩ | ⟨rfl, rfl⟩ | ⟨rfl, rfl⟩
    · simp [hb] at ht
    · simp [hb] at ht
    · obtain ⟨hmode, -⟩ := stepModeOf_some hm
      rw [speedBytes_nb s m _ _ hspd, ← hmode]
      cases m <;> simp
    · simp [sendPacket_next hfn]
    · simp [sendPacket_next hacc]
    all_goals simp

end Sys2Proof.Machine
end

section
/-! PROOFS. The packet-byte rows (30_encoding.md R50, 45_framer.md R103, R105; log 9). -/

namespace Sys2Proof.Machine

/-- Inside the byte groups the offered bit is that of the place in the group (45_framer.md R103). -/
theorem bitAtOfByte_in_group {P nb pos : Nat} (hlo : P ≤ pos) (hhi : pos < P + 9 * nb) (b : Byte) :
    bitAtOfByte P b nb pos = some (groupBit b ((pos - P) % 9)) := by
  simp only [bitAtOfByte]
  rw [if_neg (by omega), if_neg (by omega), if_neg (by omega)]

/-- An accepted byte inside the byte groups: one bit of its group goes out and `POS` advances. -/
theorem sendByte_in_group {s : State} (hb : s.busy = true) (hc : transportChoice s.ports = .accept)
    (hlo : s.params.preambleLen ≤ s.pos) (hhi : s.pos < s.params.preambleLen + 9 * s.nb.toNat) (b : Byte) :
    sendByte b s = .next (s.emit (groupBit b ((s.pos - s.params.preambleLen) % 9))).advance := by
  rw [sendByte, bitAtOfByte_in_group hlo hhi, offerBit_accept hb hc, emitStep_inner (by omega)]

/-- Settles O25: each of the ten rows sends its byte. -/
theorem packetByteRowsSendTheirNextBit : Obligations.PacketByteRowsSendTheirNextBit := by
  intro s hb hfault hready hlo hhi
  have hsend := sendByte_in_group hb ((transportChoice_eq_accept_iff _).2 ⟨hready, hfault⟩) hlo hhi
  exact ⟨fun a => hsend _, fun a => hsend _, fun h c sub => hsend _, hsend _, fun d f => hsend _,
    fun d c r => hsend _, fun f => hsend _, fun f => hsend _, fun f => hsend _, fun x => hsend x⟩

end Sys2Proof.Machine
end

section
/-! PROOFS. Locomotive addresses (40_address.md R60 to R66): which operands are in range, which bits of the address
bytes hold which operands, and what `LINIT` answers. -/

namespace Sys2Proof.Machine

/-! ## The range of a locomotive address (R64) -/

theorem validLoco_of_mem_range {addr : BitVec 16} (hlo : 1#16 ≤ addr) (hhi : addr ≤ 127#16) :
    validLoco addr = true := by
  simp only [validLoco, Bool.and_eq_true, decide_eq_true_eq]
  exact ⟨hlo, hhi⟩

theorem validLoco_eq_false {addr : BitVec 16} (h : addr = 0#16 ∨ 128#16 ≤ addr) : validLoco addr = false := by
  rw [validLoco, Bool.and_eq_false_iff]
  rcases h with rfl | hhi
  · exact .inl rfl
  · have : 128 ≤ addr.toNat := hhi
    exact .inr (decide_eq_false (by omega))

/-! ## The fields of a byte below its leading bits -/

theorem byteOfBits_low6 (b7 b6 b5 b4 b3 b2 b1 b0 : Bool) :
    (byteOfBits b7 b6 b5 b4 b3 b2 b1 b0).extractLsb' 0 6 =
      BitVec.ofBool b5 ++ BitVec.ofBool b4 ++ BitVec.ofBool b3 ++ BitVec.ofBool b2 ++ BitVec.ofBool b1 ++
        BitVec.ofBool b0 := by
  revert b7 b6 b5 b4 b3 b2 b1 b0
  decide

theorem byteOfBits_mid3 (b7 b6 b5 b4 b3 b2 b1 b0 : Bool) :
    (byteOfBits b7 b6 b5 b4 b3 b2 b1 b0).extractLsb' 4 3 =
      BitVec.ofBool b6 ++ BitVec.ofBool b5 ++ BitVec.ofBool b4 := by
  revert b7 b6 b5 b4 b3 b2 b1 b0
  decide

theorem byteOfBits_low3 (b7 b6 b5 b4 b3 b2 b1 b0 : Bool) :
    (byteOfBits b7 b6 b5 b4 b3 b2 b1 b0).extractLsb' 0 3 =
      BitVec.ofBool b2 ++ BitVec.ofBool b1 ++ BitVec.ofBool b0 := by
  revert b7 b6 b5 b4 b3 b2 b1 b0
  decide

/-- Complementing three bits twice gives them back. -/
theorem ofBool_not_three_xor (x y z : Bool) :
    (BitVec.ofBool (!x) ++ BitVec.ofBool (!y) ++ BitVec.ofBool (!z)) ^^^ 0b111#3 =
      BitVec.ofBool x ++ BitVec.ofBool y ++ BitVec.ofBool z := by
  revert x y z
  decide

/-- Three neighbouring bits, written one by one, are the field they form. -/
theorem ofBool_getLsbD_three {n : Nat} (x : BitVec n) (i : Nat) :
    BitVec.ofBool (x.getLsbD (i + 2)) ++ BitVec.ofBool (x.getLsbD (i + 1)) ++ BitVec.ofBool (x.getLsbD i) =
      x.extractLsb' i 3 := by
  simp only [ofBool_getLsbD_eq_extractLsb', BitVec.extractLsb'_append_extractLsb'_eq_extractLsb']

/-! ## The address bytes (R60 to R62) -/

theorem locoAddrByte_top (a : BitVec 7) : (locoAddrByte a).getLsbD 7 = false := by
  simp [locoAddrByte]

theorem locoAddrByte_low7 (a : BitVec 7) : (locoAddrByte a).extractLsb' 0 7 = a := by
  rw [locoAddrByte, ← BitVec.setWidth_eq_extractLsb' (by decide), BitVec.setWidth_setWidth_of_le a (by decide),
    BitVec.setWidth_eq]

theorem accByte1_low6 (a : BitVec 16) : (accByte1 a).extractLsb' 0 6 = a.extractLsb' 0 6 := by
  rw [accByte1, byteOfBits_low6]
  simp (disch := decide) only [ofBool_getLsbD_eq_extractLsb',
    BitVec.extractLsb'_append_extractLsb'_eq_extractLsb']

/-- Bits 6:4 hold the complement of the three high address bits. -/
theorem accByte2_mid3_xor (a : BitVec 16) (c : Bool) (sub : BitVec 4) :
    (accByte2 a c sub).extractLsb' 4 3 ^^^ 0b111#3 = a.extractLsb' 6 3 := by
  rw [accByte2, byteOfBits_mid3, ofBool_not_three_xor]
  exact ofBool_getLsbD_three a 6

theorem accByte2_active (a : BitVec 16) (c : Bool) (sub : BitVec 4) : (accByte2 a c sub).getLsbD 3 = c := by
  obtain ⟨-, -, -, h3, -⟩ := byteOfBits_getLsbD true (!a.getLsbD 8) (!a.getLsbD 7) (!a.getLsbD 6) c
    (sub.getLsbD 2) (sub.getLsbD 1) (sub.getLsbD 0)
  exact h3

theorem accByte2_low3 (a : BitVec 16) (c : Bool) (sub : BitVec 4) :
    (accByte2 a c sub).extractLsb' 0 3 = sub.extractLsb' 0 3 := by
  rw [accByte2, byteOfBits_low3]
  exact ofBool_getLsbD_three sub 0

/-! ## `LINIT` on the idle block (R63) -/

theorem exec_linit_of_mode_3 {s : State} (hb : s.busy = false) (addr : BitVec 16) :
    exec (.linit 3#2 addr) s = .next (s.respond .illegalCommand) :=
  whenReady_ready hb _

/-- For a legal mode the address alone decides; `MODE = 0` reads the switch of U7 (log 14). -/
theorem exec_linit_of_legal_mode {s : State} {mode : BitVec 2} (hb : s.busy = false) (hmode : mode ≠ 3#2)
    (hswitch : mode = 0#2 → s.params.mode14 = .likeMode28) (addr : BitVec 16) :
    exec (.linit mode addr) s =
      if validLoco addr then .next ((s.construct mode addr).respond .ok)
      else .next (s.respond .invalidAddress) := by
  have haccept : ¬(mode = 0#2 ∧ s.params.mode14 = .refused) := by
    rintro ⟨hzero, hrefused⟩
    simp [hswitch hzero] at hrefused
  rw [exec, execLinit, whenReady_ready hb, if_neg hmode, if_neg haccept]
  rfl

theorem exec_linit_of_address_out_of_range {s : State} {mode : BitVec 2} {addr : BitVec 16}
    (hb : s.busy = false) (hmode : mode ≠ 3#2) (hswitch : mode = 0#2 → s.params.mode14 = .likeMode28)
    (haddr : addr = 0#16 ∨ 128#16 ≤ addr) :
    exec (.linit mode addr) s = .next (s.respond .invalidAddress) := by
  rw [exec_linit_of_legal_mode hb hmode hswitch, validLoco_eq_false haddr]
  rfl

theorem exec_linit_of_address_in_range {s : State} {mode : BitVec 2} {addr : BitVec 16}
    (hb : s.busy = false) (hmode : mode ≠ 3#2) (hswitch : mode = 0#2 → s.params.mode14 = .likeMode28)
    (hlo : 1#16 ≤ addr) (hhi : addr ≤ 127#16) :
    exec (.linit mode addr) s = .next ((s.construct mode addr).respond .ok) := by
  rw [exec_linit_of_legal_mode hb hmode hswitch, validLoco_of_mem_range hlo hhi, if_pos rfl]

/-- The context holds bits 6:0 of the address operand (10_state.md R11). -/
theorem construct_eq (s : State) (mode : BitVec 2) (addr : BitVec 16) :
    s.construct mode addr = { s with laddr := addr.extractLsb' 0 7, mode := mode, fn := 0#13 } := by
  rw [State.construct, BitVec.setWidth_eq_extractLsb' (by decide)]

/-- An illegal word is refused whatever its opcode (30_encoding.md R48, 60_exceptions.md R125). -/
theorem illegalWordIsRefused (op : BitVec 4) : IllegalWordIsRefused op :=
  fun _ _ hrst hb hv _ hd => step_of_illegal hrst hb hv hd

/-! ## The obligations -/

/-- Settles O11, by the cases of R63: the mode, then the address. -/
theorem linitConstructsTheContextOrRefuses : Obligations.LinitConstructsTheContextOrRefuses := by
  refine ⟨illegalWordIsRefused 1#4, fun s mode addr hb hswitch => ⟨?_, ?_, ?_⟩⟩
  · rintro rfl
    exact exec_linit_of_mode_3 hb addr
  · intro hmode haddr
    exact exec_linit_of_address_out_of_range hb hmode hswitch haddr
  · intro hmode hlo hhi
    rw [exec_linit_of_address_in_range hb hmode hswitch hlo hhi, construct_eq]
    rfl

/-- Settles O5: each field of the address bytes by its lemma, and `LINIT` out of range. -/
theorem addressBytesRecoverTheirOperands : Obligations.AddressBytesRecoverTheirOperands := by
  refine ⟨fun a => ⟨locoAddrByte_top a, locoAddrByte_low7 a⟩, fun a c sub => ?_, fun s mode addr => ?_⟩
  · exact ⟨accByte1_top2 a, accByte1_low6 a, accByte2_top a c sub, accByte2_mid3_xor a c sub,
      accByte2_active a c sub, accByte2_low3 a c sub⟩
  · exact exec_linit_of_address_out_of_range

end Sys2Proof.Machine
end

section
/-! PROOFS. Speed and direction (41_speed.md R70 to R78): which bits of the speed bytes hold which operands, how the
operands are read back, and what `SPD` answers in each step mode. -/

namespace Sys2Proof.Machine

/-! ## The speed bytes as fields (R71, R72) -/

theorem byteOfBits_eq_top1_low7 (b7 b6 b5 b4 b3 b2 b1 b0 : Bool) :
    byteOfBits b7 b6 b5 b4 b3 b2 b1 b0 =
      BitVec.ofBool b7 ++ (BitVec.ofBool b6 ++ BitVec.ofBool b5 ++ BitVec.ofBool b4 ++ BitVec.ofBool b3 ++
        BitVec.ofBool b2 ++ BitVec.ofBool b1 ++ BitVec.ofBool b0) := by
  revert b7 b6 b5 b4 b3 b2 b1 b0
  decide

theorem byteOfBits_eq_top4_low4 (b7 b6 b5 b4 b3 b2 b1 b0 : Bool) :
    byteOfBits b7 b6 b5 b4 b3 b2 b1 b0 =
      BitVec.ofBool b7 ++ BitVec.ofBool b6 ++ BitVec.ofBool b5 ++ BitVec.ofBool b4 ++
        (BitVec.ofBool b3 ++ BitVec.ofBool b2 ++ BitVec.ofBool b1 ++ BitVec.ofBool b0) := by
  revert b7 b6 b5 b4 b3 b2 b1 b0
  decide

theorem speed128Byte2_eq (speed : Int) (dir : Bool) :
    speed128Byte2 speed dir = BitVec.ofBool dir ++ BitVec.ofInt 7 (speed + 1) := by
  rw [speed128Byte2, byteOfBits_eq_top1_low7]
  simp only [ofBool_getLsbD_eq_extractLsb', BitVec.extractLsb'_append_extractLsb'_eq_extractLsb',
    BitVec.extractLsb'_eq_self]

/-- The lowest bit of `r` stands above the other four: `r` rotated right by one place. -/
theorem speed28_eq (speed : Int) (dir : Bool) :
    speed28 speed dir = 0b01#2 ++ BitVec.ofBool dir ++ (BitVec.ofInt 5 (speed + 3)).extractLsb' 0 1 ++
      (BitVec.ofInt 5 (speed + 3)).extractLsb' 1 4 := by
  rw [speed28, byteOfBits_eq_top4_low4]
  simp only [ofBool_getLsbD_eq_extractLsb', BitVec.extractLsb'_append_extractLsb'_eq_extractLsb']
  rfl

/-! ## Reading the operands back (R78) -/

/-- The addition of the codecs does not wrap on a valid speed (R77). -/
theorem toNat_ofInt_of_fits {n : Nat} {x : Int} (hlo : 0 ≤ x) (hhi : x < 2 ^ n) :
    ((BitVec.ofInt n x).toNat : Int) = x := by
  rw [BitVec.toNat_ofInt, Int.toNat_of_nonneg (Int.emod_nonneg x (by simp))]
  exact Int.emod_eq_of_lt hlo (by exact_mod_cast hhi)

/-- A word is its lowest bit below the word shifted right. -/
theorem toNat_eq_high4_low1 (r : BitVec 5) :
    (r.extractLsb' 1 4).toNat * 2 + (r.getLsbD 0).toNat = r.toNat := by
  revert r
  decide

theorem speed128Byte2_direction (speed : Int) (dir : Bool) : (speed128Byte2 speed dir).getLsbD 7 = dir := by
  obtain ⟨-, -, -, -, -, -, -, h7⟩ := byteOfBits_getLsbD dir ((BitVec.ofInt 7 (speed + 1)).getLsbD 6) _ _ _ _ _ _
  exact h7

theorem speed128Byte2_low7 (speed : Int) (dir : Bool) :
    (speed128Byte2 speed dir).extractLsb' 0 7 = BitVec.ofInt 7 (speed + 1) := by
  rw [speed128Byte2_eq, BitVec.extractLsb'_append_eq_of_add_le (by decide), BitVec.extractLsb'_eq_self]

theorem speed28_direction_and_bit4 (speed : Int) (dir : Bool) :
    (speed28 speed dir).getLsbD 5 = dir ∧
      (speed28 speed dir).getLsbD 4 = (BitVec.ofInt 5 (speed + 3)).getLsbD 0 := by
  obtain ⟨-, -, -, -, h4, h5, -⟩ :=
    byteOfBits_getLsbD false true dir ((BitVec.ofInt 5 (speed + 3)).getLsbD 0) _ _ _ _
  exact ⟨h5, h4⟩

theorem speed28_low4 (speed : Int) (dir : Bool) :
    (speed28 speed dir).extractLsb' 0 4 = (BitVec.ofInt 5 (speed + 3)).extractLsb' 1 4 := by
  rw [speed28_eq, BitVec.extractLsb'_append_eq_of_add_le (by decide), BitVec.extractLsb'_eq_self]

theorem speed128_recovers {speed : Int} (dir : Bool) (hlo : -1 ≤ speed) (hhi : speed ≤ 126) :
    (speed128 speed dir).2.getLsbD 7 = dir ∧
      (((speed128 speed dir).2.extractLsb' 0 7).toNat : Int) - 1 = speed := by
  refine ⟨speed128Byte2_direction speed dir, ?_⟩
  rw [speed128, speed128Byte2_low7, toNat_ofInt_of_fits (by omega) (by omega)]
  omega

theorem speed28_recovers {speed : Int} (dir : Bool) (hlo : -3 ≤ speed) (hhi : speed ≤ 28) :
    (speed28 speed dir).getLsbD 5 = dir ∧
      (((speed28 speed dir).extractLsb' 0 4).toNat * 2 + ((speed28 speed dir).getLsbD 4).toNat : Int) - 3 =
        speed := by
  obtain ⟨hdir, hbit⟩ := speed28_direction_and_bit4 speed dir
  have hsplit := toNat_eq_high4_low1 (BitVec.ofInt 5 (speed + 3))
  have hfield : ((BitVec.ofInt 5 (speed + 3)).toNat : Int) = speed + 3 :=
    toNat_ofInt_of_fits (by omega) (by omega)
  rw [speed28_low4, hbit]
  exact ⟨hdir, by omega⟩

/-- Settles O6: the operands are read back from the bytes, so equal bytes have equal operands. -/
theorem speedBytesRecoverSpeedAndDirection : Obligations.SpeedBytesRecoverSpeedAndDirection := by
  refine ⟨fun v dir hlo hhi => ⟨rfl, speed128_recovers dir hlo hhi⟩,
    fun v dir hlo hhi => speed28_recovers dir hlo hhi, ?_, ?_⟩
  · intro v v' dir dir' hlo hhi hlo' hhi' h
    obtain ⟨hdir, hspeed⟩ := speed128_recovers dir hlo hhi
    obtain ⟨hdir', hspeed'⟩ := speed128_recovers dir' hlo' hhi'
    rw [h] at hdir hspeed
    exact ⟨hspeed.symm.trans hspeed', hdir.symm.trans hdir'⟩
  · intro v v' dir dir' hlo hhi hlo' hhi' h
    obtain ⟨hdir, hspeed⟩ := speed28_recovers dir hlo hhi
    obtain ⟨hdir', hspeed'⟩ := speed28_recovers dir' hlo' hhi'
    rw [h] at hdir hspeed
    exact ⟨hspeed.symm.trans hspeed', hdir.symm.trans hdir'⟩

/-! ## The packet of two or three data bytes and its frame -/

/-- The eight bits of every byte and its separator, the preamble, the stop bit (45_framer.md R100). -/
theorem frame_length (bytes : List Byte) (P : Nat) : (frame bytes P).length = P + 9 * bytes.length + 1 := by
  simp [frame, byteBits, List.length_flatMap, Nat.mul_comm, Nat.add_assoc]

theorem xorBytes_two (x y : Byte) : xorBytes [x, y] = x ^^^ y := by
  simp [xorBytes]

theorem xorBytes_three (x y z : Byte) : xorBytes [x, y, z] = x ^^^ y ^^^ z := by
  simp [xorBytes]

theorem startFrame_three (s : State) (x y z : Byte) :
    s.startFrame [x, y, z] =
      { s with buf := { b0 := x, b1 := y, b2 := z, b3 := s.buf.b3 }, nb := 3#3, pos := 0, busy := true } := rfl

theorem startFrame_four (s : State) (x y z u : Byte) :
    s.startFrame [x, y, z, u] =
      { s with buf := { b0 := x, b1 := y, b2 := z, b3 := u }, nb := 4#3, pos := 0, busy := true } := rfl

theorem locoAddrByte_eq (a : BitVec 7) : locoAddrByte a = 0#1 ++ a :=
  (BitVec.setWidth_eq_append (by decide)).trans (by simp)

/-! ## `SPD` by its cases (R70) -/

theorem validSpeed_mode128_iff (speed : Int) : validSpeed .mode128 speed = true ↔ -1 ≤ speed ∧ speed ≤ 126 := by
  simp [validSpeed]

theorem validSpeed_mode28_iff (speed : Int) : validSpeed .mode28 speed = true ↔ -3 ≤ speed ∧ speed ≤ 28 := by
  simp [validSpeed]

theorem exec_spd_of_busy {s : State} (hb : s.busy = true) (dir : Bool) (speed : BitVec 8) :
    exec (.spd dir speed) s = .next s :=
  whenReady_busy hb _

theorem exec_spd_of_no_loco {s : State} (hb : s.busy = false) (hloco : s.laddr = 0#7) (dir : Bool)
    (speed : BitVec 8) : exec (.spd dir speed) s = .next (s.respond .invalidAddress) :=
  (whenReady_ready hb _).trans (if_pos hloco)

/-- With a loco constructed the range of the held mode decides. -/
theorem exec_spd_of_loco {s : State} {m : StepMode} (hb : s.busy = false) (hloco : s.laddr ≠ 0#7)
    (hm : stepModeOf s.mode = some m) (dir : Bool) (speed : BitVec 8) :
    exec (.spd dir speed) s =
      if validSpeed m speed.toInt then sendPacket (locoAddrByte s.laddr :: speedBytes m speed.toInt dir) s
      else raise .invalidSpeed s := by
  rw [exec, execSpd, whenReady_ready hb, if_neg hloco, hm]

theorem exec_spd_of_speed_out_of_range {s : State} {m : StepMode} {speed : BitVec 8} (hb : s.busy = false)
    (hloco : s.laddr ≠ 0#7) (hm : stepModeOf s.mode = some m) (hspeed : ¬validSpeed m speed.toInt = true)
    (dir : Bool) : exec (.spd dir speed) s = .next (s.respond .invalidSpeed) := by
  rw [exec_spd_of_loco hb hloco hm, if_neg hspeed, raise]

theorem exec_spd_mode128_in_range {s : State} {speed : BitVec 8} (hb : s.busy = false) (hloco : s.laddr ≠ 0#7)
    (hmode : s.mode = 2#2) (hlo : -1 ≤ speed.toInt) (hhi : speed.toInt ≤ 126) (dir : Bool) :
    let a : Byte := locoAddrByte s.laddr
    let i2 : Byte := speed128Byte2 speed.toInt dir
    exec (.spd dir speed) s = .next (s.startFrame [a, 0x3F#8, i2, a ^^^ 0x3F#8 ^^^ i2]) := by
  intro a i2
  rw [exec_spd_of_loco hb hloco (m := .mode128) (by rw [hmode]; rfl),
    if_pos ((validSpeed_mode128_iff _).2 ⟨hlo, hhi⟩), ← xorBytes_three]
  rfl

theorem exec_spd_mode28_in_range {s : State} {speed : BitVec 8} (hb : s.busy = false) (hloco : s.laddr ≠ 0#7)
    (hmode : s.mode = 1#2) (hlo : -3 ≤ speed.toInt) (hhi : speed.toInt ≤ 28) (dir : Bool) :
    let a : Byte := locoAddrByte s.laddr
    let i : Byte := speed28 speed.toInt dir
    exec (.spd dir speed) s = .next (s.startFrame [a, i, a ^^^ i]) := by
  intro a i
  rw [exec_spd_of_loco hb hloco (m := .mode28) (by rw [hmode]; rfl),
    if_pos ((validSpeed_mode28_iff _).2 ⟨hlo, hhi⟩), ← xorBytes_two]
  rfl

/-- The 14-step mode shares the range and the bytes of the 28-step mode, and `SPD` writes no `MODE` (R75). -/
theorem exec_spd_mode14_like_mode28 (s : State) (dir : Bool) (speed : BitVec 8) :
    ∃ t, exec (.spd dir speed) { s with mode := 1#2 } = .next t ∧
      exec (.spd dir speed) { s with mode := 0#2 } = .next { t with mode := 0#2 } := by
  rcases Bool.eq_false_or_eq_true s.busy with hb | hb
  · exact ⟨_, exec_spd_of_busy (s := { s with mode := 1#2 }) hb dir speed,
      exec_spd_of_busy (s := { s with mode := 0#2 }) hb dir speed⟩
  · by_cases hloco : s.laddr = 0#7
    · exact ⟨_, exec_spd_of_no_loco (s := { s with mode := 1#2 }) hb hloco dir speed,
        exec_spd_of_no_loco (s := { s with mode := 0#2 }) hb hloco dir speed⟩
    · have h28 := exec_spd_of_loco (s := { s with mode := 1#2 }) (m := .mode28) hb hloco rfl dir speed
      have h14 := exec_spd_of_loco (s := { s with mode := 0#2 }) (m := .mode14) hb hloco rfl dir speed
      by_cases hspeed : validSpeed .mode28 speed.toInt = true
      · exact ⟨_, h28.trans (if_pos hspeed), h14.trans (if_pos hspeed)⟩
      · exact ⟨_, h28.trans (if_neg hspeed), h14.trans (if_neg hspeed)⟩

/-! ## The obligations of `SPD` -/

/-- Settles O13, by the range of the 128-step mode. -/
theorem spdInMode128SendsFourBytes : Obligations.SpdInMode128SendsFourBytes := by
  intro s dir speed hb hloco hmode
  refine ⟨fun hlo hhi => ⟨?_, frame_length _ _⟩, fun hout => ?_⟩
  · rw [exec_spd_mode128_in_range hb hloco hmode hlo hhi, startFrame_four, locoAddrByte_eq, speed128Byte2_eq]
  · refine exec_spd_of_speed_out_of_range (m := .mode128) hb hloco (by rw [hmode]; rfl) ?_ dir
    rw [validSpeed_mode128_iff]
    omega

/-- Settles O14, by the range of the 28-step mode. -/
theorem spdInMode28SendsThreeBytes : Obligations.SpdInMode28SendsThreeBytes := by
  intro s dir speed hb hloco hmode
  refine ⟨fun hlo hhi => ⟨?_, frame_length _ _⟩, fun hout => ?_⟩
  · rw [exec_spd_mode28_in_range hb hloco hmode hlo hhi, startFrame_three, locoAddrByte_eq, speed28_eq]
  · refine exec_spd_of_speed_out_of_range (m := .mode28) hb hloco (by rw [hmode]; rfl) ?_ dir
    rw [validSpeed_mode28_iff]
    omega

/-- Settles O15: a state with `MODE = 0` is itself with that mode written. -/
theorem spdInMode14BehavesAsInMode28 : Obligations.SpdInMode14BehavesAsInMode28 := by
  intro s dir speed hmode
  have hself : { s with mode := 0#2 } = s := by rw [← hmode]
  obtain ⟨t, h28, h14⟩ := exec_spd_mode14_like_mode28 s dir speed
  exact ⟨t, h28, hself ▸ h14⟩

end Sys2Proof.Machine
end

section
/-! PROOFS. Functions (42_function.md R80 to R87): which bits of a group byte hold which function bits, what a write
of a function bit does, what `FN` answers in each of its cases, and who may change a function bit. -/

namespace Sys2Proof.Machine

/-! ## The function-group bytes (R82) -/

/-- The four low bits of a byte, written as shifted bits below the four leading ones. -/
theorem byteOfBits_eq_top4_or_low4 (b7 b6 b5 b4 b3 b2 b1 b0 : Bool) :
    byteOfBits b7 b6 b5 b4 b3 b2 b1 b0 =
      byteOfBits b7 b6 b5 b4 false false false false ||| (BitVec.ofBool b3).setWidth 8 <<< 3 |||
        (BitVec.ofBool b2).setWidth 8 <<< 2 ||| (BitVec.ofBool b1).setWidth 8 <<< 1 |||
        (BitVec.ofBool b0).setWidth 8 := by
  revert b7 b6 b5 b4 b3 b2 b1 b0
  decide

/-- The bit below three leading bits: F0 in group 1. -/
theorem byteOfBits_eq_top3_or_bit4 (b7 b6 b5 b4 : Bool) :
    byteOfBits b7 b6 b5 b4 false false false false =
      byteOfBits b7 b6 b5 false false false false false ||| (BitVec.ofBool b4).setWidth 8 <<< 4 := by
  revert b7 b6 b5 b4
  decide

/-- A group 1 byte: the leading bits `100` and five function bits. -/
theorem byteOfBits_group1 (b4 b3 b2 b1 b0 : Bool) :
    byteOfBits true false false b4 b3 b2 b1 b0 =
      0x80#8 ||| (BitVec.ofBool b4).setWidth 8 <<< 4 ||| (BitVec.ofBool b3).setWidth 8 <<< 3 |||
        (BitVec.ofBool b2).setWidth 8 <<< 2 ||| (BitVec.ofBool b1).setWidth 8 <<< 1 |||
        (BitVec.ofBool b0).setWidth 8 := by
  rw [byteOfBits_eq_top4_or_low4, byteOfBits_eq_top3_or_bit4]
  rfl

/-- Two function bits whose one-bit bytes are equal are equal. -/
theorem getLsbD_eq_of_extractLsb'_setWidth_eq {fn : BitVec 13} {i j : Nat}
    (h : (fn.extractLsb' i 1).setWidth 8 = (fn.extractLsb' j 1).setWidth 8) : fn.getLsbD i = fn.getLsbD j := by
  simpa using congrArg (BitVec.getLsbD · 0) h

/-- Settles O7: each byte is its leading bits and its function bits, and equal bits may change places. -/
theorem functionByteHoldsItsBitsByLayout : Obligations.FunctionByteHoldsItsBitsByLayout := by
  intro fn f
  have hbit (i : Nat) : f i = (BitVec.ofBool (fn.getLsbD i)).setWidth 8 := by
    rw [ofBool_getLsbD_eq_extractLsb']
  refine ⟨?_, ?_, ?_, ?_, ?_, ?_, fun h h' h'' => ?_, fun h h' h'' => ?_, fun h h' h'' => ?_⟩
  · simp only [hbit]; exact byteOfBits_group1 ..
  · simp only [hbit]; exact byteOfBits_eq_top4_or_low4 ..
  · simp only [hbit]; exact byteOfBits_eq_top4_or_low4 ..
  · simp only [hbit]; exact byteOfBits_group1 ..
  · simp only [hbit]; exact byteOfBits_eq_top4_or_low4 ..
  · simp only [hbit]; exact byteOfBits_eq_top4_or_low4 ..
  all_goals
    simp only [fnByte, getLsbD_eq_of_extractLsb'_setWidth_eq h, getLsbD_eq_of_extractLsb'_setWidth_eq h',
      getLsbD_eq_of_extractLsb'_setWidth_eq h'']

/-! ## The groups and the write of one bit (R81, R83) -/

theorem fnGroup_of_le_four {i : Nat} (h : i ≤ 4) : fnGroup i = .group1 := if_pos h

theorem fnGroup_of_five_to_eight {i : Nat} (hlo : 5 ≤ i) (hhi : i ≤ 8) : fnGroup i = .group2Upper := by
  rw [fnGroup, if_neg (by omega), if_pos hhi]

theorem fnGroup_of_nine_le {i : Nat} (h : 9 ≤ i) : fnGroup i = .group2Lower := by
  rw [fnGroup, if_neg (by omega), if_neg (by omega)]

/-- The bit written holds the operand. -/
theorem setFnBit_getLsbD_same (fn : BitVec 13) {i : Nat} (hi : i ≤ 12) (on : Bool) :
    (setFnBit fn i on).getLsbD i = on := by
  rw [setFnBit_getLsbD _ _ _ _ (by omega), if_pos rfl]

/-- Writing the held value writes nothing (R87). -/
theorem setFnBit_getLsbD_self (fn : BitVec 13) (i : Nat) : setFnBit fn i (fn.getLsbD i) = fn := by
  apply BitVec.eq_of_getLsbD_eq
  intro j hj
  rw [setFnBit_getLsbD _ _ _ _ hj]
  split
  next heq => rw [heq]
  next => rfl

/-- A write that changes bit `j` is a write of bit `j`. -/
theorem setFnBit_changed {fn : BitVec 13} {i j : Nat} {on : Bool}
    (h : (setFnBit fn i on).getLsbD j ≠ fn.getLsbD j) : j = i ∧ (setFnBit fn i on).getLsbD j = on := by
  have hj : j < 13 := by
    by_contra hge
    exact h (by rw [BitVec.getLsbD_of_ge _ _ (by omega), BitVec.getLsbD_of_ge _ _ (by omega)])
  rw [setFnBit_getLsbD _ _ _ _ hj] at h ⊢
  by_cases hji : j = i
  · exact ⟨hji, if_pos hji⟩
  · exact absurd (if_neg hji) h

/-! ## `FN` on the idle block, by its cases (R83) -/

theorem exec_fn_of_no_loco {s : State} (hb : s.busy = false) (hloco : s.laddr = 0#7) (idx : BitVec 4) (on : Bool) :
    exec (.fn idx on) s = .next (s.respond .invalidAddress) :=
  (whenReady_ready hb _).trans (if_pos hloco)

theorem exec_fn_of_index_out_of_range {s : State} {idx : BitVec 4} (hb : s.busy = false) (hloco : s.laddr ≠ 0#7)
    (hidx : 13 ≤ idx.toNat) (on : Bool) : exec (.fn idx on) s = .next (s.respond .functionNotAvailable) := by
  rw [exec, execFn, whenReady_ready hb, if_neg hloco, if_pos (by omega), raise]

/-- The bytes are built from the function bits after the write. -/
theorem exec_fn_of_index_in_range {s : State} {idx : BitVec 4} (hb : s.busy = false) (hloco : s.laddr ≠ 0#7)
    (hidx : idx.toNat ≤ 12) (on : Bool) :
    let a : Byte := locoAddrByte s.laddr
    let b : Byte := fnByte s.params.fnLayout (fnGroup idx.toNat) (setFnBit s.fn idx.toNat on)
    exec (.fn idx on) s = .next ((s.writeFn idx.toNat on).startFrame [a, b, a ^^^ b]) := by
  intro a b
  rw [exec, execFn, whenReady_ready hb, if_neg hloco, if_neg (by omega), ← xorBytes_two]
  rfl

/-- The write is an assignment, not a toggle: with the held value no bit changes and the frame starts all the same
(R87). -/
theorem exec_fn_of_held_value {s : State} {idx : BitVec 4} {on : Bool} (hb : s.busy = false)
    (hloco : s.laddr ≠ 0#7) (hidx : idx.toNat ≤ 12) (hheld : s.fn.getLsbD idx.toNat = on) :
    let a : Byte := locoAddrByte s.laddr
    let b : Byte := fnByte s.params.fnLayout (fnGroup idx.toNat) s.fn
    exec (.fn idx on) s = .next (s.startFrame [a, b, a ^^^ b]) := by
  have hfn : setFnBit s.fn idx.toNat on = s.fn := by rw [← hheld, setFnBit_getLsbD_self]
  rw [exec_fn_of_index_in_range hb hloco hidx, State.writeFn, hfn]

/-! ## Who changes a function bit (R86) -/

/-- A command that changes a function bit is `LINIT`, or the `FN` of that bit. -/
theorem command_changes_fn {i : Instr} {s t : State} {j : Nat} (hc : i.isCommand = true) (hb : s.busy = false)
    (h : exec i s = .next t) (hj : t.fn.getLsbD j ≠ s.fn.getLsbD j) :
    (∃ mode addr, i = .linit mode addr) ∨
      ∃ idx on, i = .fn idx on ∧ j = idx.toNat ∧ t.fn.getLsbD j = on := by
  rcases command_next hc hb h with
    ⟨e, rfl, -⟩ | ⟨mode, addr, hi, -, -, -⟩ | ⟨_, _, _, -, -, -, -, hspd⟩ | ⟨idx, on, hi, -, -, hfn⟩ |
    ⟨_, _, _, -, -, -, hacc⟩ | ⟨-, rfl⟩ | ⟨-, rfl⟩ | ⟨-, rfl⟩
  · exact absurd (by rw [respond_fn]) hj
  · exact .inl ⟨mode, addr, hi⟩
  · exact absurd (by rw [sendPacket_next hspd, startFrame_fn]) hj
  · rw [sendPacket_next hfn, startFrame_fn, writeFn_fn] at hj ⊢
    exact .inr ⟨idx, on, hi, setFnBit_changed hj⟩
  · exact absurd (by rw [sendPacket_next hacc, startFrame_fn]) hj
  all_goals exact absurd (by rw [startFrame_fn]) hj

/-- The sequencer writes no function bit: not on an abort, a stall, the last bit or an inner one. -/
theorem sequenceFrame_keeps_fn {s t : State} (hb : s.busy = true) (h : sequenceFrame s = .next t) :
    t.fn = s.fn := by
  rcases sequenceFrame_next h hb with
    ⟨-, rfl⟩ | ⟨-, rfl⟩ | ⟨-, b, -, -, rfl⟩ | ⟨-, b, -, -, rfl⟩
  · exact abort_fn s
  · rfl
  · rw [finish_fn, emit_fn]
  · rw [advance_fn, emit_fn]

/-! ## The obligations of `FN` -/

/-- Settles O17, by the cases of R83; the bits after the write are those of `setFnBit`, the group that of
`fnGroup`. -/
theorem fnWritesOneBitAndSendsItsGroup : Obligations.FnWritesOneBitAndSendsItsGroup := by
  refine ⟨illegalWordIsRefused 3#4, fun s idx on hb =>
    ⟨fun hloco => exec_fn_of_no_loco hb hloco idx on, fun hloco hidx => ?_,
      fun hloco hidx => exec_fn_of_index_out_of_range hb hloco hidx on⟩⟩
  refine ⟨setFnBit s.fn idx.toNat on, fnGroup idx.toNat, setFnBit_getLsbD s.fn idx.toNat on,
    fnGroup_of_le_four, fnGroup_of_five_to_eight, fnGroup_of_nine_le, ?_⟩
  rw [exec_fn_of_index_in_range hb hloco hidx, startFrame_three, locoAddrByte_eq]
  rfl

/-- Settles O18: the first `FN` leaves a state that holds the operand, so the second sends the same bits again. -/
theorem repeatedFnSendsTheSamePacket : Obligations.RepeatedFnSendsTheSamePacket := by
  intro s idx on hb hloco hidx
  refine ⟨_, exec_fn_of_index_in_range hb hloco hidx on, fun tx rsp pos tick ports inputs => ?_⟩
  refine Eq.trans (exec_fn_of_held_value ?idle ?loco hidx ?held) ?state
  case idle => rfl
  case loco => exact hloco
  case held => exact setFnBit_getLsbD_same s.fn hidx on
  case state => rfl

/-- Settles O19: the frame starts from a state whose bits are untouched. -/
theorem fnWithTheHeldValueResendsItsGroup : Obligations.FnWithTheHeldValueResendsItsGroup := by
  intro s idx hb hloco hidx
  refine ⟨_, exec_fn_of_held_value hb hloco hidx rfl, startFrame_fn _ _, startFrame_busy _ _, ?_⟩
  rw [startFrame_packet_three]
  rfl

/-- Settles O47, by the cases of what a step can do: of those without reset only a command changes a bit. -/
theorem onlyFnLinitAndResetWriteFunctionBits : Obligations.OnlyFnLinitAndResetWriteFunctionBits := by
  intro s t j h hj
  rcases step_next h with
    ⟨hrst, -⟩ | ⟨-, hb, hseq⟩ | ⟨-, hb, hv, i, hdec, hexec⟩ | ⟨-, -, -, -, rfl⟩ | ⟨-, -, -, rfl⟩
  · exact .inl hrst
  · exact absurd (by rw [sequenceFrame_keeps_fn (s := s.sample) hb hseq, sample_fn]) hj
  · obtain ⟨hcommand, -⟩ := decodeCommand_ok hdec
    rcases command_changes_fn (s := s.sample) hcommand hb hexec hj with
      ⟨mode, addr, rfl⟩ | ⟨idx, on, rfl, hidx, hon⟩
    · exact .inr ⟨hb, hv, .inl ⟨mode, addr, hdec⟩⟩
    · exact .inr ⟨hb, hv, .inr ⟨idx, on, hdec, hidx, hon⟩⟩
  · exact absurd (by rw [respond_fn, sample_fn]) hj
  · exact absurd (by rw [sample_fn]) hj

end Sys2Proof.Machine
end

section
/-! PROOFS. Accessory decoders (43_accessory.md R90): the accessory bytes as fields, what `ACC` answers in each of its
cases, and that `ACC` and the broadcast commands (46_broadcast.md R118) neither read nor write the loco context. -/

namespace Sys2Proof.Machine

/-! ## The ranges of the operands (40_address.md R64) -/

theorem validAcc_iff (addr : BitVec 16) : validAcc addr = true ↔ 1#16 ≤ addr ∧ addr ≤ 511#16 := by
  simp [validAcc, BitVec.le_def]

theorem validSub_iff (sub : BitVec 4) : validSub sub = true ↔ sub ≤ 7#4 := by
  simp [validSub, BitVec.le_def]

/-! ## The accessory bytes as fields (40_address.md R61, R62) -/

theorem byteOfBits_eq_top2_low6 (b7 b6 b5 b4 b3 b2 b1 b0 : Bool) :
    byteOfBits b7 b6 b5 b4 b3 b2 b1 b0 =
      BitVec.ofBool b7 ++ BitVec.ofBool b6 ++ (BitVec.ofBool b5 ++ BitVec.ofBool b4 ++ BitVec.ofBool b3 ++
        BitVec.ofBool b2 ++ BitVec.ofBool b1 ++ BitVec.ofBool b0) := by
  revert b7 b6 b5 b4 b3 b2 b1 b0
  decide

theorem byteOfBits_eq_top1_mid3_bit3_low3 (b7 b6 b5 b4 b3 b2 b1 b0 : Bool) :
    byteOfBits b7 b6 b5 b4 b3 b2 b1 b0 =
      BitVec.ofBool b7 ++ (BitVec.ofBool b6 ++ BitVec.ofBool b5 ++ BitVec.ofBool b4) ++ BitVec.ofBool b3 ++
        (BitVec.ofBool b2 ++ BitVec.ofBool b1 ++ BitVec.ofBool b0) := by
  revert b7 b6 b5 b4 b3 b2 b1 b0
  decide

theorem ofBool_not_three (x y z : Bool) :
    BitVec.ofBool (!x) ++ BitVec.ofBool (!y) ++ BitVec.ofBool (!z) =
      ~~~(BitVec.ofBool x ++ BitVec.ofBool y ++ BitVec.ofBool z) := by
  revert x y z
  decide

theorem accByte1_eq (addr : BitVec 16) : accByte1 addr = 0b10#2 ++ addr.extractLsb' 0 6 := by
  rw [accByte1, byteOfBits_eq_top2_low6]
  simp only [ofBool_getLsbD_eq_extractLsb', BitVec.extractLsb'_append_extractLsb'_eq_extractLsb']
  rfl

/-- Of the fields of the second byte only the address bits are complemented. -/
theorem accByte2_eq (addr : BitVec 16) (active : Bool) (sub : BitVec 4) :
    accByte2 addr active sub =
      1#1 ++ ~~~(addr.extractLsb' 6 3) ++ BitVec.ofBool active ++ sub.extractLsb' 0 3 := by
  rw [accByte2, byteOfBits_eq_top1_mid3_bit3_low3, ofBool_not_three]
  exact congrArg₂ (fun (high low : BitVec 3) => 1#1 ++ ~~~high ++ BitVec.ofBool active ++ low)
    (ofBool_getLsbD_three addr 6) (ofBool_getLsbD_three sub 0)

/-! ## `ACC` on the idle block, by its cases (R90) -/

theorem exec_acc_of_address_out_of_range {s : State} {addr : BitVec 16} (hb : s.busy = false)
    (haddr : ¬validAcc addr = true) (sub : BitVec 4) (active : Bool) :
    exec (.acc sub active addr) s = .next (s.respond .invalidAddress) :=
  (whenReady_ready hb _).trans (if_neg haddr)

/-- With a valid address the sub-state decides. -/
theorem exec_acc_of_address_in_range {s : State} {addr : BitVec 16} (hb : s.busy = false)
    (haddr : validAcc addr = true) (sub : BitVec 4) (active : Bool) :
    exec (.acc sub active addr) s =
      if validSub sub then sendPacket [accByte1 addr, accByte2 addr active sub] s
      else raise .invalidSubState s :=
  (whenReady_ready hb _).trans (if_pos haddr)

theorem exec_acc_of_sub_out_of_range {s : State} {sub : BitVec 4} {addr : BitVec 16} (hb : s.busy = false)
    (haddr : validAcc addr = true) (hsub : ¬validSub sub = true) (active : Bool) :
    exec (.acc sub active addr) s = .next (s.respond .invalidSubState) :=
  (exec_acc_of_address_in_range hb haddr sub active).trans (if_neg hsub)

theorem exec_acc_in_range {s : State} {sub : BitVec 4} {addr : BitVec 16} (hb : s.busy = false)
    (haddr : validAcc addr = true) (hsub : validSub sub = true) (active : Bool) :
    let b1 : Byte := accByte1 addr
    let b2 : Byte := accByte2 addr active sub
    exec (.acc sub active addr) s = .next (s.startFrame [b1, b2, b1 ^^^ b2]) := by
  intro b1 b2
  rw [exec_acc_of_address_in_range hb haddr, if_pos hsub, ← xorBytes_two]
  rfl

/-! ## Meanings that ignore the loco context (R90, 46_broadcast.md R118) -/

/-- The state with any function bits, address and mode in the place of its own. -/
def State.withLocoContext (s : State) (fn : BitVec 13) (laddr : BitVec 7) (mode : BitVec 2) : State :=
  { s with fn := fn, laddr := laddr, mode := mode }

/-- A meaning that always answers, answers alike under every loco context, and keeps the one it finds. -/
def IgnoresLocoContext (f : State → Result) : Prop :=
  ∀ (s : State) (fn : BitVec 13) (laddr : BitVec 7) (mode : BitVec 2),
    ∃ t, f s = .next t ∧ f (s.withLocoContext fn laddr mode) = .next (t.withLocoContext fn laddr mode) ∧
      t.fn = s.fn ∧ t.laddr = s.laddr ∧ t.mode = s.mode

theorem IgnoresLocoContext.raise (r : Response) : IgnoresLocoContext (raise r) :=
  fun s _ _ _ => ⟨_, rfl, rfl, respond_fn s r, respond_laddr s r, respond_mode s r⟩

theorem IgnoresLocoContext.startFrame (bytes : List Byte) :
    IgnoresLocoContext (fun s => .next (s.startFrame bytes)) :=
  fun s _ _ _ => ⟨_, rfl, rfl, startFrame_fn s bytes, startFrame_laddr s bytes, startFrame_mode s bytes⟩

/-- Whether the block is ready is no matter of the context. -/
theorem IgnoresLocoContext.whenReady {f : State → Result} (hf : IgnoresLocoContext f) :
    IgnoresLocoContext (fun s => s.whenReady (f s)) := by
  intro s fn laddr mode
  rcases Bool.eq_false_or_eq_true s.busy with hb | hb
  · exact ⟨s, whenReady_busy hb _, whenReady_busy (s := s.withLocoContext fn laddr mode) hb _, rfl, rfl, rfl⟩
  · obtain ⟨t, hs, hs', hkeep⟩ := hf s fn laddr mode
    exact ⟨t, (whenReady_ready hb _).trans hs,
      (whenReady_ready (s := s.withLocoContext fn laddr mode) hb _).trans hs', hkeep⟩

/-- Both range checks read the operands alone. -/
theorem execAcc_ignores_loco_context (sub : BitVec 4) (active : Bool) (addr : BitVec 16) :
    IgnoresLocoContext (execAcc sub active addr) := by
  refine IgnoresLocoContext.whenReady ?_
  cases validAcc addr with
  | false => exact .raise .invalidAddress
  | true =>
    cases validSub sub with
    | false => exact .raise .invalidSubState
    | true => exact .startFrame _

/-! ## The obligations -/

/-- Settles O20, by the cases of R90: the address, then the sub-state. -/
theorem accSendsItsPacketOrRefuses : Obligations.AccSendsItsPacketOrRefuses := by
  refine ⟨illegalWordIsRefused 4#4, fun s sub active addr hb => ⟨?_, ?_, ?_⟩⟩
  · intro hlo hhi hsub
    rw [exec_acc_in_range hb ((validAcc_iff addr).2 ⟨hlo, hhi⟩) ((validSub_iff sub).2 hsub), startFrame_three,
      accByte1_eq, accByte2_eq]
  · intro hout
    refine exec_acc_of_address_out_of_range hb ?_ sub active
    rw [validAcc_iff]
    bv_omega
  · intro hlo hhi hsub
    refine exec_acc_of_sub_out_of_range hb ((validAcc_iff addr).2 ⟨hlo, hhi⟩) ?_ active
    rw [validSub_iff]
    bv_omega

/-- Settles O22: each of the four is a meaning that ignores the loco context. -/
theorem accAndBroadcastsIgnoreTheLocoContext : Obligations.AccAndBroadcastsIgnoreTheLocoContext := by
  rintro i s fn laddr mode (⟨sub, active, addr, rfl⟩ | rfl | rfl | rfl)
  · exact execAcc_ignores_loco_context sub active addr s fn laddr mode
  · exact (IgnoresLocoContext.startFrame _).whenReady s fn laddr mode
  · exact (IgnoresLocoContext.startFrame _).whenReady s fn laddr mode
  · exact (IgnoresLocoContext.startFrame _).whenReady s fn laddr mode

end Sys2Proof.Machine
end

section
/-! PROOFS. The checksum (44_checksum.md R95): each byte folded into it flips exactly the bits that the byte has set. -/

namespace Sys2Proof.Machine

/-! ## The checksum by the bytes folded in (R95) -/

theorem xorBytes_nil : xorBytes [] = 0#8 := rfl

/-- The left-to-right fold takes the last byte last. -/
theorem xorBytes_append_singleton (bytes : List Byte) (b : Byte) :
    xorBytes (bytes ++ [b]) = xorBytes bytes ^^^ b := by
  simp [xorBytes, List.foldl_append]

/-! ## The bytes with a bit set -/

/-- How many of the bytes have bit `i` set. -/
def columnCount (i : Nat) (bytes : List Byte) : Nat := bytes.countP fun b => b.getLsbD i

theorem columnCount_append_singleton (i : Nat) (bytes : List Byte) (b : Byte) :
    columnCount i (bytes ++ [b]) = columnCount i bytes + (b.getLsbD i).toNat := by
  cases h : b.getLsbD i <;> simp [columnCount, h]

/-- Counting one more bit flips the parity when the bit is set. -/
theorem parity_add_bit (n : Nat) (b : Bool) :
    decide ((n + b.toNat) % 2 = 1) = (decide (n % 2 = 1) ^^ b) := by
  cases b with
  | false => simp
  | true =>
    rcases Nat.mod_two_eq_zero_or_one n with h | h <;> simp [Nat.add_mod, h]

/-! ## The obligation -/

/-- Settles O8, by induction on the bytes in the order they are folded: the empty checksum has no bit set, and
the last byte flips exactly the parities of the columns where it has a bit. -/
theorem checksumBitIsTheParityOfItsColumn : Obligations.ChecksumBitIsTheParityOfItsColumn := by
  intro bytes i
  change (xorBytes bytes).getLsbD i = decide (columnCount i bytes % 2 = 1)
  induction bytes using List.reverseRecOn with
  | nil => simp [xorBytes_nil, columnCount]
  | append_singleton bytes b ih =>
    calc (xorBytes (bytes ++ [b])).getLsbD i
        = ((xorBytes bytes).getLsbD i ^^ b.getLsbD i) := by
          rw [xorBytes_append_singleton, BitVec.getLsbD_xor]
      _ = (decide (columnCount i bytes % 2 = 1) ^^ b.getLsbD i) := by rw [ih]
      _ = decide (columnCount i (bytes ++ [b]) % 2 = 1) := by
          rw [columnCount_append_singleton, parity_add_bit]

end Sys2Proof.Machine
end

section
/-! PROOFS. The bits of a frame (45_framer.md R100, R103, R109): which bit stands at each place of `Frame`, which bit
`BitAt` names there, and that the two agree. -/

namespace Sys2Proof.Machine

/-! ## The nine-bit group of a byte -/

@[simp] theorem groupBit_zero (b : Byte) : groupBit b 0 = false := rfl

theorem groupBit_of_pos (b : Byte) {j : Nat} (hj : 1 ≤ j) : groupBit b j = b.getLsbD (8 - j) :=
  if_neg (by omega)

/-- Writing the eight bits of a byte in order gives the byte back. -/
theorem byteOfBits_getLsbD_self (b : Byte) :
    byteOfBits (b.getLsbD 7) (b.getLsbD 6) (b.getLsbD 5) (b.getLsbD 4) (b.getLsbD 3) (b.getLsbD 2) (b.getLsbD 1)
      (b.getLsbD 0) = b := by
  obtain ⟨h0, h1, h2, h3, h4, h5, h6, h7⟩ := byteOfBits_getLsbD (b.getLsbD 7) (b.getLsbD 6) (b.getLsbD 5)
    (b.getLsbD 4) (b.getLsbD 3) (b.getLsbD 2) (b.getLsbD 1) (b.getLsbD 0)
  exact byte_ext h0 h1 h2 h3 h4 h5 h6 h7

/-- A byte goes out as its separator and its eight bits (20_memory.md R33). -/
theorem separator_byteBits_getElem? (b : Byte) {j : Nat} (hj : j < 9) :
    (false :: byteBits b)[j]? = some (groupBit b j) := by
  match j, hj with
  | 0, _ | 1, _ | 2, _ | 3, _ | 4, _ | 5, _ | 6, _ | 7, _ | 8, _ => rfl

/-- The groups stand one after the other, nine bits each. -/
theorem groups_getElem? (bytes : List Byte) (k : Nat) {j : Nat} (hj : j < 9) :
    (bytes.flatMap fun b => false :: byteBits b)[9 * k + j]? = bytes[k]?.map fun b => groupBit b j := by
  induction bytes generalizing k with
  | nil => rfl
  | cons b bs ih =>
    have hlen : (false :: byteBits b).length = 9 := rfl
    rw [List.flatMap_cons]
    cases k with
    | zero =>
      rw [List.getElem?_append_left (by omega), Nat.mul_zero, Nat.zero_add, separator_byteBits_getElem? b hj]
      rfl
    | succ k =>
      rw [List.getElem?_append_right (by omega), hlen, show 9 * (k + 1) + j - 9 = 9 * k + j by omega, ih]
      rfl

/-! ## `Frame` place by place (R100) -/

theorem groups_length (bytes : List Byte) :
    (bytes.flatMap fun b => false :: byteBits b).length = 9 * bytes.length := by
  simp [byteBits, List.length_flatMap, Nat.mul_comm]

theorem frame_preamble (bytes : List Byte) {P i : Nat} (hi : i < P) : (frame bytes P)[i]? = some true := by
  simp [frame, List.getElem?_append_left, hi]

theorem frame_group {bytes : List Byte} {k j : Nat} (P : Nat) (hk : k < bytes.length) (hj : j < 9) :
    (frame bytes P)[P + 9 * k + j]? = bytes[k]?.map fun b => groupBit b j := by
  have hlen := groups_length bytes
  rw [frame, List.getElem?_append_left (by simp only [List.length_append, List.length_replicate]; omega),
    List.getElem?_append_right (by rw [List.length_replicate]; omega), List.length_replicate,
    show P + 9 * k + j - P = 9 * k + j by omega, groups_getElem? bytes k hj]

theorem frame_stop (bytes : List Byte) (P : Nat) : (frame bytes P)[P + 9 * bytes.length]? = some true := by
  rw [frame, ← groups_length bytes]
  simp

/-! ## `BitAt` place by place (R103) -/

theorem bitAt_preamble (buf : PacketBuffer) {P pos : Nat} (nb : Nat) (hpos : pos < P) :
    bitAt P buf nb pos = some true := if_pos hpos

theorem bitAt_group (P : Nat) (buf : PacketBuffer) {nb k j : Nat} (hk : k < nb) (hj : j < 9) :
    bitAt P buf nb (P + 9 * k + j) = (buf.get? k).map fun b => groupBit b j := by
  have hq : P + 9 * k + j - P = 9 * k + j := by omega
  simp only [bitAt, hq]
  rw [if_neg (by omega), if_neg (by omega), if_neg (by omega), show (9 * k + j) / 9 = k by omega,
    show (9 * k + j) % 9 = j by omega]

theorem bitAt_stop (P : Nat) (buf : PacketBuffer) (nb : Nat) : bitAt P buf nb (P + 9 * nb) = some true := by
  simp [bitAt]

/-! ## The two views agree (R103, R106) -/

/-- A place of a frame is in the preamble, in the group of a byte, or the stop bit. -/
theorem frame_place {P n pos : Nat} (hpos : pos ≤ P + 9 * n) :
    pos < P ∨ (∃ k j, k < n ∧ j < 9 ∧ pos = P + 9 * k + j) ∨ pos = P + 9 * n := by
  by_cases hpre : pos < P
  · exact .inl hpre
  · by_cases hstop : pos = P + 9 * n
    · exact .inr (.inr hstop)
    · exact .inr (.inl ⟨(pos - P) / 9, (pos - P) % 9, by omega, by omega, by omega⟩)

theorem PacketBuffer.get?_eq_getElem? (buf : PacketBuffer) (k : Nat) :
    buf.get? k = [buf.b0, buf.b1, buf.b2, buf.b3][k]? := by
  match k with
  | 0 | 1 | 2 | 3 | _ + 4 => rfl

/-- `BitAt` reads, from the registers, the frame of the used bytes. -/
theorem bitAt_eq_frame (buf : PacketBuffer) {P nb pos : Nat} (hnb : nb ≤ 4) (hpos : pos ≤ P + 9 * nb) :
    bitAt P buf nb pos = (frame ([buf.b0, buf.b1, buf.b2, buf.b3].take nb) P)[pos]? := by
  have hlen : ([buf.b0, buf.b1, buf.b2, buf.b3].take nb).length = nb := by simpa using hnb
  rcases frame_place hpos with hpre | ⟨k, j, hk, hj, rfl⟩ | rfl
  · rw [bitAt_preamble buf nb hpre, frame_preamble _ hpre]
  · rw [bitAt_group P buf hk hj, frame_group P (by rwa [hlen]) hj, List.getElem?_take_of_lt hk,
      buf.get?_eq_getElem?]
  · have hstop := frame_stop ([buf.b0, buf.b1, buf.b2, buf.b3].take nb) P
    rw [hlen] at hstop
    rw [bitAt_stop, hstop]

/-! ## Reading the groups back (R109) -/

/-- The byte that eight neighbouring bits of a frame write, most significant bit first. -/
def readByte (F : List Bool) (start : Nat) : Byte :=
  let b := fun j => F.getD (start + j) false
  byteOfBits (b 1) (b 2) (b 3) (b 4) (b 5) (b 6) (b 7) (b 8)

/-- The group of a byte, read back, is the byte (R109). -/
theorem readByte_frame {bytes : List Byte} {k : Nat} (P : Nat) (hk : k < bytes.length) :
    readByte (frame bytes P) (P + 9 * k) = bytes[k] := by
  have hbit : ∀ j, 1 ≤ j → j < 9 → (frame bytes P).getD (P + 9 * k + j) false = bytes[k].getLsbD (8 - j) := by
    intro j hpos hj
    rw [List.getD_eq_getElem?_getD, frame_group P hk hj, List.getElem?_eq_getElem hk, Option.map_some,
      Option.getD_some, groupBit_of_pos _ hpos]
  rw [readByte]
  simp only [hbit, Nat.reduceLeDiff, Nat.reduceLT, Nat.reduceSub]
  exact byteOfBits_getLsbD_self _

/-- Reading every group of a frame back gives its bytes (R109). -/
theorem map_readByte_frame (bytes : List Byte) (P : Nat) :
    (List.range bytes.length).map (fun k => readByte (frame bytes P) (P + 9 * k)) = bytes := by
  refine List.ext_getElem (by simp) fun k _ hk => ?_
  rw [List.getElem_map, List.getElem_range, readByte_frame P hk]

/-! ## The obligations -/

/-- Settles O9: each place of the frame by its lemma; the groups read back are the bytes, and data bytes with their
checksum fold to zero. -/
theorem frameHasItsShape : Obligations.FrameHasItsShape := by
  intro bytes P F n readBack
  have hread : readBack = bytes := map_readByte_frame bytes P
  refine ⟨frame_length bytes P, fun i => frame_preamble bytes, fun k hk => ?_, fun k j hk hlo hhi => ?_,
    frame_stop bytes P, hread, fun data hdata => ?_⟩
  · have hgroup := frame_group P hk (j := 0) (by decide)
    rwa [List.getElem?_eq_getElem hk] at hgroup
  · rw [frame_group P hk (by omega)]
    simp only [groupBit_of_pos _ hlo]
  · rw [hread, hdata, xorBytes_append_self]

/-- Settles O10: each place by its lemma, and the agreement of the two views. -/
theorem bitAtIsTheBitOfTheFrame : Obligations.BitAtIsTheBitOfTheFrame := by
  intro P nb buf hnb
  refine ⟨fun pos => bitAt_preamble buf nb, fun k hk => ?_, fun k j hk hlo hhi => ?_, bitAt_stop P buf nb,
    fun pos hpos => ?_⟩
  · obtain ⟨b, hb⟩ := buf.get?_of_lt (k := k) (by omega)
    simpa [hb] using bitAt_group P buf hk (j := 0) (by decide)
  · rw [bitAt_group P buf hk (by omega)]
    simp only [groupBit_of_pos _ hlo]
  · obtain ⟨b, hb⟩ := bitAt_defined buf hnb hpos
    exact ⟨b, hb, by rw [← bitAt_eq_frame buf hnb hpos, hb]⟩

end Sys2Proof.Machine
end

section
/-! PROOFS. A step of the block with a frame in flight (45_framer.md R104, R105, 60_exceptions.md R130), by what the
transport does; and the rows of the output language as the steps of the sequencer that send them (log 9). -/

namespace Sys2Proof.Machine

/-! ## The transport's choice (R104) -/

theorem transportChoice_of_fault {p : Ports} (hfault : p.txFault = true) : transportChoice p = .fault := by
  simp [transportChoice, hfault]

theorem transportChoice_of_stall {p : Ports} (hfault : p.txFault = false) (hready : p.txReady = false) :
    transportChoice p = .stall := by
  simp [transportChoice, hfault, hready]

/-! ## A step with a frame in flight -/

section
variable {s : State} (hrst : s.nextPorts.rst = false) (hb : s.busy = true)
include hrst hb

theorem step_of_fault (hfault : s.nextPorts.txFault = true) : step s = .next s.sample.abort := by
  rw [step_of_busy hrst hb]
  exact offerBit_fault (s := s.sample) hb (transportChoice_of_fault hfault) _ _

theorem step_of_stall (hfault : s.nextPorts.txFault = false) (hready : s.nextPorts.txReady = false) :
    step s = .next s.sample := by
  rw [step_of_busy hrst hb]
  exact offerBit_stall (s := s.sample) hb (transportChoice_of_stall hfault hready) _ _

/-- The transport takes the offered bit (R105). -/
theorem step_of_accept {b : Bool} (hfault : s.nextPorts.txFault = false) (hready : s.nextPorts.txReady = true)
    (hbit : s.offeredBit = some b) : step s = .next (s.sample.emitStep s.nb.toNat b) := by
  rw [step_of_busy hrst hb, sequenceFrame, sample_offeredBit, hbit]
  exact offerBit_accept (s := s.sample) hb ((transportChoice_eq_accept_iff _).2 ⟨hready, hfault⟩) _ b

end

/-! ## The rows of the output language -/

/-- A packet-byte row means one step of the sequencer on its byte. -/
theorem exec_of_encode_packetByte {i : Instr} {b : Byte} (h : encode i = .packetByte b) (s : State) :
    exec i s = sendByte b s := by
  cases i with
  | linit | spd | fn | acc | rst | idle | estop | dccPktReset | dccPktIdle | dccPktStopall => cases h
  | dccLocoaddr | dccAccB1 | dccAccB2 | dccSpeed128B1 | dccSpeed128B2 | dccSpeed28 | dccFnG1 | dccFnG2u | dccFnG2l
  | dccChecksum => cases h; rfl

/-- Where two bit vectors are joined is known, so the parts can be read back. -/
theorem eq_of_append_eq_append {m n : Nat} {x x' : BitVec m} {y y' : BitVec n} (h : x ++ y = x' ++ y') :
    x = x' ∧ y = y' := by
  have hhi := congrArg (BitVec.extractLsb' n m) h
  have hlo := congrArg (BitVec.extractLsb' 0 n) h
  rw [BitVec.extractLsb'_append_eq_left, BitVec.extractLsb'_append_eq_left] at hhi
  rw [BitVec.extractLsb'_append_eq_right, BitVec.extractLsb'_append_eq_right] at hlo
  exact ⟨hhi, hlo⟩

/-- The three bytes of a packet are told apart by their places in its 24 bits. -/
theorem packet_bytes_inj {b0 b1 b2 c0 c1 c2 : Byte} (h : b0 ++ b1 ++ b2 = c0 ++ c1 ++ c2) :
    [b0, b1, b2] = [c0, c1, c2] := by
  obtain ⟨h01, h2⟩ := eq_of_append_eq_append h
  obtain ⟨h0, h1⟩ := eq_of_append_eq_append h01
  rw [h0, h1, h2]

/-- A literal-packet row means one step of the sequencer on its packet. -/
theorem exec_of_encode_packet {i : Instr} {b0 b1 b2 : Byte} (h : encode i = .packet (b0 ++ b1 ++ b2)) (s : State) :
    exec i s = sendLiteral [b0, b1, b2] s := by
  cases i with
  | dccPktReset | dccPktIdle | dccPktStopall =>
    rw [← packet_bytes_inj (Encoded.packet.inj h)]
    rfl
  | _ => cases h

/-- Inside the group of byte `k` the frame in flight offers the bit of that byte (R103). -/
theorem bitAt_eq_bitAtOfByte {P nb k pos : Nat} {buf : PacketBuffer} {b : Byte} (hk : k < nb)
    (hbyte : buf.get? k = some b) (hlo : P + 9 * k ≤ pos) (hhi : pos < P + 9 * k + 9) :
    bitAt P buf nb pos = bitAtOfByte P b nb pos := by
  obtain ⟨j, rfl⟩ := Nat.exists_eq_add_of_le hlo
  have hj : j < 9 := by omega
  rw [bitAt_group P buf hk hj, hbyte, Option.map_some, bitAtOfByte_in_group (by omega) (by omega),
    show (P + 9 * k + j - P) % 9 = j by omega]

/-- The offered bit is that of the frame of the used bytes (R106). -/
theorem offeredBit_eq_frame {s : State} (hnb : s.nb.toNat ≤ 4)
    (hpos : s.pos ≤ s.params.preambleLen + 9 * s.nb.toNat) :
    s.offeredBit = (frame s.packet s.params.preambleLen)[s.pos]? :=
  bitAt_eq_frame s.buf hnb hpos

/-! ## The obligations -/

/-- Settles O33: the bit is defined at every position of the frame, and the step is an accepted one. -/
theorem emitStepSendsTheBitAtPos : Obligations.EmitStepSendsTheBitAtPos := by
  intro s hrst hb hnb hpos hfault hready
  obtain ⟨b, hbit⟩ := bitAt_defined s.buf hnb hpos
  have hstep := step_of_accept hrst hb hfault hready hbit
  refine ⟨b, hbit, fun hlast => ?_, fun hinner => ?_⟩
  · rw [hstep, emitStep_last (s := s.sample) hlast]
    rfl
  · rw [hstep, emitStep_inner (s := s.sample) hinner]
    rfl

/-- Settles O28: the step and the row offer the same bit. -/
theorem stepSendsThePacketByteInFlight : Obligations.StepSendsThePacketByteInFlight := by
  intro s i b k hrst hb hrow hk hbyte hlo hhi
  rw [step_of_busy hrst hb, exec_of_encode_packetByte hrow, sequenceFrame, sendByte, State.offeredBit]
  exact congrArg (offerBit s.nb.toNat · s.sample) (bitAt_eq_bitAtOfByte hk hbyte hlo hhi)

/-- Settles O29: the step and the row offer the same bit of a frame of the same length. -/
theorem stepSendsTheLiteralPacketInFlight : Obligations.StepSendsTheLiteralPacketInFlight := by
  intro s i b0 b1 b2 hrst hb hrow hthree hpacket hpos
  have hnb : s.nb.toNat = 3 := by rw [hthree]; rfl
  have hbit := offeredBit_eq_frame (s := s) (by omega) (by omega)
  rw [step_of_busy hrst hb, exec_of_encode_packet hrow, sequenceFrame, sendLiteral, sample_offeredBit, hbit,
    hpacket, sample_nb, hnb]
  rfl

/-- Settles O27: every row is a step of the sequencer on some bit, and none is taken. -/
theorem outputRowsStallAbortAndIdle : Obligations.OutputRowsStallAbortAndIdle := by
  intro i s hrow
  obtain ⟨n, bit, hoffer⟩ := outputRow_offers hrow s
  rw [hoffer]
  refine ⟨fun hb hfault => ?_, fun hb hfault hready => ?_, fun hb => ?_⟩
  · exact offerBit_fault hb (transportChoice_of_fault hfault) n bit
  · exact offerBit_stall hb (transportChoice_of_stall hfault hready) n bit
  · exact offerBit_idle hb n bit

/-- Settles O30: the step of a presented legal word; what sampling changes is its definition. -/
theorem stepRunsThePresentedCommand : Obligations.StepRunsThePresentedCommand :=
  fun _ _ hrst hb hv hd => ⟨step_of_command hrst hb hv hd, rfl⟩

/-- Settles O32: the step with no word presented; it does not look at the transport. -/
theorem idleStepDoesNothing : Obligations.IdleStepDoesNothing :=
  fun _ hrst hb hv => step_of_no_command hrst hb hv

end Sys2Proof.Machine
end

section
/-! PROOFS. Runs of the sequencer over a script of the transport (45_framer.md R106, R110): the block stands still
while the transport stalls, and the bits it accepts are those of `Frame`, in order. -/

namespace Sys2Proof.Machine

/-! ## Runs, one step at a time -/

section
variable {M : Host.Core} {k : Nat} {s t : M.State}

theorem run_one (s : M.State) : M.run 1 s = M.step s := by
  rw [Host.Core.run]
  cases M.step s <;> rfl

/-- A run that ends in a next state has answered one after its first step. -/
theorem run_succ_next (h : M.run (k + 1) s = .next t) : ∃ u, M.step s = .next u ∧ M.run k u = .next t := by
  rw [Host.Core.run] at h
  split at h
  next u hstep => exact ⟨u, hstep, h⟩
  next => cases h
  next => cases h

/-- A run of one more step is the run and then a step from where it ends. -/
theorem run_succ_of_run (h : M.run k s = .next t) : M.run (k + 1) s = M.step t := by
  induction k generalizing s with
  | zero => cases h; exact run_one _
  | succ k ih =>
    obtain ⟨u, hstep, hrun⟩ := run_succ_next h
    rw [Host.Core.run, hstep]
    exact ih hrun

end

/-- One more step sampled, one more step run. -/
theorem run_append_singleton {ps : List Ports} {s t : State} (h : Host.Core.run core ps.length s = .next t)
    (p : Ports) : Host.Core.run core (ps ++ [p]).length s = step t := by
  rw [List.length_append]
  exact run_succ_of_run h

/-- The head of the script is what the next step samples. -/
theorem nextPorts_of_inputs {s : State} {p : Ports} {rest : List Ports} (h : s.inputs = p :: rest) :
    s.nextPorts = p := by
  rw [State.nextPorts, h]

/-! ## Stalls (R110) -/

/-- Settles O35, by induction on the script from its end: each further stalled step only samples the input ports. -/
theorem stallingTransportHoldsTheBlock : Obligations.StallingTransportHoldsTheBlock := by
  intro stalls rest s hb hinputs hstalls
  induction stalls using List.reverseRecOn generalizing rest with
  | nil => exact ⟨s, rfl, hb, rfl, rfl, hinputs, fun h => absurd rfl h, rfl, rfl, rfl, rfl, rfl, rfl⟩
  | append_singleton stalls p ih =>
    obtain ⟨t, hrun, htb, hbit, htx, htinputs, -, hfn, hladdr, hmode, hbuf, hnb, hpos⟩ :=
      ih (p :: rest) (by rw [hinputs, List.append_assoc, List.singleton_append])
        fun q hq => hstalls q (List.mem_append_left _ hq)
    obtain ⟨hrst, hfault, hready⟩ := hstalls p (by simp)
    rw [← nextPorts_of_inputs htinputs] at hrst hfault hready
    exact ⟨t.sample, (run_append_singleton hrun p).trans (step_of_stall hrst htb hfault hready), htb, hbit, htx,
      by rw [sample_inputs, htinputs, List.tail_cons], fun _ => sample_rsp t, hfn, hladdr, hmode, hbuf, hnb, hpos⟩

/-! ## The bits sent so far (R106) -/

/-- `t` is `s`, the state of a frame just started, once the first `m` bits of the frame have gone to `TX`: what the
frame is built from and the loco context are still those of `s`. -/
structure SentBits (s t : State) (m : Nat) : Prop where
  tx : t.tx = s.tx ++ (frame s.packet s.params.preambleLen).take m
  busy : t.busy = true
  pos : t.pos = m
  buf : t.buf = s.buf
  nb : t.nb = s.nb
  params : t.params = s.params
  fn : t.fn = s.fn
  laddr : t.laddr = s.laddr
  mode : t.mode = s.mode

section
variable {s t : State} {m : Nat}

theorem SentBits.start (hb : s.busy = true) (hpos : s.pos = 0) : SentBits s s 0 :=
  ⟨by rw [List.take_zero, List.append_nil], hb, hpos, rfl, rfl, rfl, rfl, rfl, rfl⟩

theorem SentBits.packet (h : SentBits s t m) : t.packet = s.packet := packet_congr h.buf h.nb

theorem SentBits.sample (h : SentBits s t m) : SentBits s t.sample m := { h with }

/-- The bit that the frame in flight offers is the next one of `Frame`. -/
theorem SentBits.offeredBit (h : SentBits s t m) (hnb : s.nb.toNat ≤ 4)
    (hm : m ≤ s.params.preambleLen + 9 * s.nb.toNat) :
    t.offeredBit = (frame s.packet s.params.preambleLen)[m]? := by
  rw [← h.packet, ← h.params, ← h.pos]
  exact offeredBit_eq_frame (by rwa [h.nb]) (by rwa [h.nb, h.params, h.pos])

/-- Up to the stop bit there is a next bit of `Frame`, and the block offers it. -/
theorem SentBits.exists_offeredBit (h : SentBits s t m) (hnb : s.nb.toNat ≤ 4)
    (hm : m ≤ s.params.preambleLen + 9 * s.nb.toNat) :
    ∃ b, t.offeredBit = some b ∧ (frame s.packet s.params.preambleLen)[m]? = some b := by
  have hpos : t.pos ≤ t.params.preambleLen + 9 * t.nb.toNat := by rwa [h.nb, h.params, h.pos]
  obtain ⟨b, hb⟩ := bitAt_defined t.buf (by rwa [h.nb]) hpos
  exact ⟨b, hb, by rw [← h.offeredBit hnb hm]; exact hb⟩

/-- One more bit of `Frame` on `TX`. -/
theorem SentBits.tx_append (h : SentBits s t m) {b : Bool}
    (hbit : (frame s.packet s.params.preambleLen)[m]? = some b) :
    t.tx ++ [b] = s.tx ++ (frame s.packet s.params.preambleLen).take (m + 1) := by
  rw [h.tx, List.take_add_one, hbit, List.append_assoc, Option.toList_some]

/-! ## One step of the sequencer -/

theorem SentBits.step_stall (h : SentBits s t m) (hrst : t.nextPorts.rst = false)
    (hfault : t.nextPorts.txFault = false) (hready : t.nextPorts.txReady = false) : step t = .next t.sample :=
  step_of_stall hrst h.busy hfault hready

/-- Before the stop bit an accept sends one more bit and the frame stays in flight. -/
theorem SentBits.step_accept (h : SentBits s t m) (hnb : s.nb.toNat ≤ 4)
    (hm : m < s.params.preambleLen + 9 * s.nb.toNat) (hrst : t.nextPorts.rst = false)
    (hfault : t.nextPorts.txFault = false) (hready : t.nextPorts.txReady = true) :
    ∃ u, step t = .next u ∧ SentBits s u (m + 1) ∧ u.inputs = t.inputs.tail := by
  obtain ⟨b, hoffer, hbit⟩ := h.exists_offeredBit hnb hm.le
  have hinner : t.pos ≠ t.params.preambleLen + 9 * t.nb.toNat := by rw [h.pos, h.params, h.nb]; omega
  refine ⟨(t.sample.emit b).advance, ?_, ?_, rfl⟩
  · rw [step_of_accept hrst h.busy hfault hready hoffer, emitStep_inner (s := t.sample) hinner]
  · exact { h with tx := h.tx_append hbit, pos := congrArg (· + 1) h.pos }

/-- The accept of the stop bit completes the frame. -/
theorem SentBits.step_last (h : SentBits s t (s.params.preambleLen + 9 * s.nb.toNat)) (hnb : s.nb.toNat ≤ 4)
    (hrst : t.nextPorts.rst = false) (hfault : t.nextPorts.txFault = false) (hready : t.nextPorts.txReady = true) :
    ∃ u, step t = .next u ∧ u.tx = s.tx ++ frame s.packet s.params.preambleLen ∧ u.busy = false ∧
      u.rsp = some .ok ∧ u.inputs = t.inputs.tail ∧ u.fn = s.fn ∧ u.laddr = s.laddr ∧ u.mode = s.mode := by
  obtain ⟨b, hoffer, hbit⟩ := h.exists_offeredBit hnb le_rfl
  have hlast : t.pos = t.params.preambleLen + 9 * t.nb.toNat := by rw [h.pos, h.params, h.nb]
  have hwhole : (frame s.packet s.params.preambleLen).length ≤ s.params.preambleLen + 9 * s.nb.toNat + 1 := by
    have hbytes : s.packet.length ≤ s.nb.toNat := List.length_take_le ..
    rw [frame_length]
    omega
  refine ⟨(t.sample.emit b).finish, ?_, ?_, rfl, rfl, rfl, h.fn, h.laddr, h.mode⟩
  · rw [step_of_accept hrst h.busy hfault hready hoffer, emitStep_last (s := t.sample) hlast]
  · exact (h.tx_append hbit).trans (by rw [List.take_of_length_le hwhole])

/-- A fault sends nothing more and ends the frame (60_exceptions.md R130). -/
theorem SentBits.step_fault (h : SentBits s t m) (hrst : t.nextPorts.rst = false)
    (hfault : t.nextPorts.txFault = true) :
    ∃ u, step t = .next u ∧ u.tx = s.tx ++ (frame s.packet s.params.preambleLen).take m ∧ u.busy = false ∧
      u.rsp = some .transportError ∧ u.fn = s.fn ∧ u.laddr = s.laddr ∧ u.mode = s.mode :=
  ⟨t.sample.abort, step_of_fault hrst h.busy hfault, h.tx, rfl, rfl, h.fn, h.laddr, h.mode⟩

end

/-! ## A run over a script of accepts and stalls -/

/-- How many bits a script accepts. -/
def acceptCount (ps : List Ports) : Nat := ps.countP fun p => p.txReady

theorem acceptCount_append_singleton (ps : List Ports) (p : Ports) :
    acceptCount (ps ++ [p]) = acceptCount ps + p.txReady.toNat := by
  cases h : p.txReady <;> simp [acceptCount, h]

/-- Up to the stop bit a run sends one bit of `Frame` per accept, in order, however they lie among the stalls. -/
theorem run_sends_bits {s : State} {ps rest : List Ports} (hb : s.busy = true) (hpos : s.pos = 0)
    (hnb : s.nb.toNat ≤ 4) (hinputs : s.inputs = ps ++ rest) (hps : ∀ p ∈ ps, p.rst = false ∧ p.txFault = false)
    (hcount : acceptCount ps ≤ s.params.preambleLen + 9 * s.nb.toNat) :
    ∃ t : State, Host.Core.run core ps.length s = .next t ∧ SentBits s t (acceptCount ps) ∧ t.inputs = rest := by
  induction ps using List.reverseRecOn generalizing rest with
  | nil => exact ⟨s, rfl, .start hb hpos, hinputs⟩
  | append_singleton ps p ih =>
    rw [acceptCount_append_singleton] at hcount
    obtain ⟨t, hrun, hsent, htinputs⟩ := ih (rest := p :: rest)
      (by rw [hinputs, List.append_assoc, List.singleton_append])
      (fun q hq => hps q (List.mem_append_left _ hq)) (by omega)
    obtain ⟨hrst, hfault⟩ := hps p (by simp)
    have hp := nextPorts_of_inputs htinputs
    rw [← hp] at hrst hfault
    rw [run_append_singleton hrun, acceptCount_append_singleton]
    cases hready : p.txReady with
    | false =>
      exact ⟨t.sample, hsent.step_stall hrst hfault (by rw [hp, hready]), hsent.sample,
        by rw [sample_inputs, htinputs, List.tail_cons]⟩
    | true =>
      rw [hready, Bool.toNat_true] at hcount
      obtain ⟨u, hstep, husent, huinputs⟩ := hsent.step_accept hnb hcount hrst hfault (by rw [hp, hready])
      exact ⟨u, hstep, husent, by rw [huinputs, htinputs, List.tail_cons]⟩

/-- A run whose last accept is that of the stop bit sends the whole of `Frame`. -/
theorem run_sends_frame {s : State} {ps rest : List Ports} {p : Ports} (hb : s.busy = true) (hpos : s.pos = 0)
    (hnb : s.nb.toNat ≤ 4) (hinputs : s.inputs = ps ++ [p] ++ rest)
    (hps : ∀ q ∈ ps ++ [p], q.rst = false ∧ q.txFault = false) (hready : p.txReady = true)
    (hcount : acceptCount (ps ++ [p]) = s.params.preambleLen + 9 * s.nb.toNat + 1) :
    ∃ t : State, Host.Core.run core (ps ++ [p]).length s = .next t ∧
      t.tx = s.tx ++ frame s.packet s.params.preambleLen ∧ t.busy = false ∧ t.rsp = some .ok ∧ t.inputs = rest ∧
      t.fn = s.fn ∧ t.laddr = s.laddr ∧ t.mode = s.mode := by
  rw [acceptCount_append_singleton, hready, Bool.toNat_true, Nat.add_right_cancel_iff] at hcount
  obtain ⟨t, hrun, hsent, htinputs⟩ := run_sends_bits (rest := p :: rest) hb hpos hnb
    (by rw [hinputs, List.append_assoc, List.singleton_append])
    (fun q hq => hps q (List.mem_append_left _ hq)) hcount.le
  rw [hcount] at hsent
  obtain ⟨hrst, hfault⟩ := hps p (by simp)
  have hp := nextPorts_of_inputs htinputs
  rw [← hp] at hrst hfault hready
  obtain ⟨u, hstep, htx, hidle, hrsp, huinputs, hcontext⟩ := hsent.step_last hnb hrst hfault hready
  exact ⟨u, (run_append_singleton hrun p).trans hstep, htx, hidle, hrsp,
    by rw [huinputs, htinputs, List.tail_cons], hcontext⟩

/-- Settles O36: up to the stop bit by `run_sends_bits`, and the fault that may follow; the whole frame by
`run_sends_frame`. -/
theorem sequencerSendsExactlyTheFrame : Obligations.SequencerSendsExactlyTheFrame := by
  intro s ps rest hb hpos hlength hinputs hps F last accepted
  have hnb : s.nb.toNat ≤ 4 := by rcases hlength with h | h <;> simp [h]
  constructor
  · intro hcount
    obtain ⟨t, hrun, hsent, htinputs⟩ := run_sends_bits hb hpos hnb hinputs hps hcount
    exact ⟨t, hrun, hsent.tx, hsent.busy, hsent.pos, htinputs, hsent.packet, hsent.fn, hsent.laddr, hsent.mode,
      fun hrst hfault => hsent.step_fault hrst hfault⟩
  · intro hcount hend
    rcases List.eq_nil_or_concat' ps with rfl | ⟨ps', p, rfl⟩
    · cases hend
    · rw [List.getLast?_concat, Option.map_some, Option.some_inj] at hend
      exact run_sends_frame hb hpos hnb hinputs hps hend hcount

end Sys2Proof.Machine
end

section
/-! PROOFS. The broadcast packets (46_broadcast.md R115 to R118): the rows of the literal packets send the bits of their
frames, and the broadcast commands start those frames. -/

namespace Sys2Proof.Machine

/-! ## The literal-packet rows (45_framer.md R100, R105; log 9) -/

/-- A frame has a bit at every place up to the stop bit (45_framer.md R100). -/
theorem frame_defined (bytes : List Byte) {P pos : Nat} (hpos : pos ≤ P + 9 * bytes.length) :
    ∃ b, (frame bytes P)[pos]? = some b := by
  have hlt : pos < (frame bytes P).length := by rw [frame_length]; omega
  exact ⟨_, List.getElem?_eq_getElem hlt⟩

section
variable {s : State} {bytes : List Byte} {b : Bool} (hb : s.busy = true)
  (hc : transportChoice s.ports = .accept) (hbit : (frame bytes s.params.preambleLen)[s.pos]? = some b)
include hb hc hbit

/-- An accepted bit before the stop bit goes out and `POS` advances. -/
theorem sendLiteral_inner (hinner : s.pos ≠ s.params.preambleLen + 9 * bytes.length) :
    sendLiteral bytes s = .next (s.emit b).advance := by
  rw [sendLiteral, hbit, offerBit_accept hb hc, emitStep_inner hinner]

/-- An accepted stop bit ends the frame. -/
theorem sendLiteral_last (hlast : s.pos = s.params.preambleLen + 9 * bytes.length) :
    sendLiteral bytes s = .next (s.emit b).finish := by
  rw [sendLiteral, hbit, offerBit_accept hb hc, emitStep_last hlast]

end

/-- Each row sends its packet, of three bytes. -/
theorem literalRow_sends {i : Instr} {bytes : List Byte}
    (hrow : (i = .dccPktReset ∧ bytes = [0x00#8, 0x00#8, 0x00#8]) ∨
      (i = .dccPktIdle ∧ bytes = [0xFF#8, 0x00#8, 0xFF#8]) ∨
      (i = .dccPktStopall ∧ bytes = [0x00#8, 0x70#8, 0x70#8])) (s : State) :
    exec i s = sendLiteral bytes s ∧ bytes.length = 3 := by
  rcases hrow with ⟨rfl, rfl⟩ | ⟨rfl, rfl⟩ | ⟨rfl, rfl⟩
  · exact ⟨rfl, rfl⟩
  · exact ⟨rfl, rfl⟩
  · exact ⟨rfl, rfl⟩

/-! ## The obligations -/

/-- Settles O26: the frame of three bytes has a bit at `POS`, and the row sends it; the stop bit is a one. -/
theorem literalPacketRowsSendTheirFrame : Obligations.LiteralPacketRowsSendTheirFrame := by
  intro s hb hfault hready hpos i bytes hrow
  obtain ⟨hsend, hlen⟩ := literalRow_sends hrow s
  have hc := (transportChoice_eq_accept_iff s.ports).2 ⟨hready, hfault⟩
  obtain ⟨b, hbit⟩ := frame_defined bytes (P := s.params.preambleLen) (pos := s.pos) (by omega)
  refine ⟨b, hbit, fun hinner => ?_, fun hlast => ?_⟩
  · exact hsend.trans (sendLiteral_inner hb hc hbit (by omega))
  · have hstop : s.pos = s.params.preambleLen + 9 * bytes.length := by omega
    refine ⟨?_, hsend.trans (sendLiteral_last hb hc hbit hstop)⟩
    rw [hstop, frame_stop] at hbit
    exact (Option.some.inj hbit).symm

/-- Settles O21: the idle block is ready for each of the three, and a frame of three bytes starts. -/
theorem broadcastCommandsSendTheirLiterals : Obligations.BroadcastCommandsSendTheirLiterals := by
  refine ⟨illegalWordIsRefused 5#4, illegalWordIsRefused 6#4, illegalWordIsRefused 7#4, fun s hb => ?_⟩
  simp only [← startFrame_three]
  exact ⟨whenReady_ready hb _, whenReady_ready hb _, whenReady_ready hb _⟩

end Sys2Proof.Machine
end

section
/-! PROOFS. Reset (70_reset_and_hazards.md R140 to R142), commands that are not accepted (R146), and the refusals of
commands on the idle block (60_exceptions.md R122, 93_implementation_defined.md U7). -/

namespace Sys2Proof.Machine

/-! ## Commands by the state of the block -/

/-- A command is accepted only while `cmd_ready = 1` (log 19). -/
theorem command_of_busy {i : Instr} {s : State} (hc : i.isCommand = true) (hb : s.busy = true) :
    exec i s = .next s := by
  cases i with
  | linit mode addr => exact whenReady_busy hb _
  | spd dir speed => exact whenReady_busy hb _
  | fn idx on => exact whenReady_busy hb _
  | acc sub active addr => exact whenReady_busy hb _
  | rst => exact whenReady_busy hb _
  | idle => exact whenReady_busy hb _
  | estop => exact whenReady_busy hb _
  | _ => simp [Instr.isCommand] at hc

/-- The cautious side of the switch does not look at the address (log 14). -/
theorem exec_linit_mode14_refused {s : State} (hb : s.busy = false) (hswitch : s.params.mode14 = .refused)
    (addr : BitVec 16) : exec (.linit 0#2 addr) s = .refused .mode14Refused := by
  rw [exec, execLinit, whenReady_ready hb, if_neg (by decide), if_pos ⟨rfl, hswitch⟩]

/-- A `LINIT` that answers a next state was not stopped by the switch. -/
theorem mode14_accepted_of_next {s t : State} {mode : BitVec 2} {addr : BitVec 16} (hb : s.busy = false)
    (h : exec (.linit mode addr) s = .next t) (hmode : mode = 0#2) : s.params.mode14 = .likeMode28 := by
  subst hmode
  cases hswitch : s.params.mode14 with
  | likeMode28 => rfl
  | refused => simp [exec_linit_mode14_refused hb hswitch] at h

/-! ## The obligations -/

/-- Settles O23, command by command: none of them is accepted. -/
theorem commandHasNoEffectWhileBusy : Obligations.CommandHasNoEffectWhileBusy :=
  fun _ _ hc hb => command_of_busy hc hb

/-- Settles O16: both commands look at `LADDR` before their operands. -/
theorem spdAndFnNeedALoco : Obligations.SpdAndFnNeedALoco :=
  fun _ hb hloco => ⟨exec_spd_of_no_loco hb hloco, exec_fn_of_no_loco hb hloco⟩

/-- Settles O12: the switch stops `MODE = 0`; the other modes do not read it. -/
theorem cautiousSwitchRefusesOnlyMode14 : Obligations.CautiousSwitchRefusesOnlyMode14 := by
  intro s mode addr hb hrefused
  have hother (hmode : mode = 1#2 ∨ mode = 2#2) : mode ≠ 3#2 ∧ mode ≠ 0#2 := by
    rcases hmode with rfl | rfl <;> decide
  refine ⟨?_, ?_, fun hmode haddr => ?_, fun hmode hlo hhi => ?_⟩
  · rintro rfl
    exact exec_linit_mode14_refused hb hrefused addr
  · rintro rfl
    exact exec_linit_of_mode_3 hb addr
  · obtain ⟨hlegal, hnonzero⟩ := hother hmode
    exact exec_linit_of_address_out_of_range hb hlegal (absurd · hnonzero) haddr
  · obtain ⟨hlegal, hnonzero⟩ := hother hmode
    rw [exec_linit_of_address_in_range hb hlegal (absurd · hnonzero) hlo hhi, construct_eq]
    rfl

/-- Settles O31: a step with `rst = 1` resets the sampled state. -/
theorem resetStepClearsTheContextAndCutsTheFrame : Obligations.ResetStepClearsTheContextAndCutsTheFrame :=
  fun s hrst => ⟨s.sample.applyReset, step_of_rst hrst, applyReset_fn _, applyReset_laddr _, applyReset_mode _,
    applyReset_busy _, applyReset_tx _, applyReset_rsp _, applyReset_params _⟩

/-- Settles O41, by evaluating the ports of the reset state. -/
theorem resetStateIsIdleWithNoLoco : Obligations.ResetStateIsIdleWithNoLoco := by
  unfold Obligations.ResetStateIsIdleWithNoLoco
  decide

end Sys2Proof.Machine
end

section
/-! PROOFS. What a step reads of the input ports: the sequencer reads the transport's alone, the idle block the
command port's alone (70_reset_and_hazards.md R146, 60_exceptions.md R130). -/

namespace Sys2Proof.Machine

/-! ## Another record of the input ports -/

/-- The state with another record of the input ports. -/
def State.withPorts (s : State) (p : Ports) : State := { s with ports := p }

/-- The same answer with another record of the input ports in the next state. -/
def resultWithPorts (p : Ports) : Result → Result
  | .next t => .next (t.withPorts p)
  | .fault e => .fault e
  | .refused e => .refused e

/-- A meaning that neither reads nor writes the record of the input ports. -/
def IgnoresPorts (f : State → Result) : Prop :=
  ∀ (s : State) (p : Ports), f (s.withPorts p) = resultWithPorts p (f s)

/-- Whether the block is ready is no matter of the ports. -/
theorem IgnoresPorts.whenReady {f : State → Result} (hf : IgnoresPorts f) :
    IgnoresPorts (fun s => s.whenReady (f s)) := by
  intro s p
  rcases Bool.eq_false_or_eq_true s.busy with hb | hb
  · exact (whenReady_busy (s := s.withPorts p) hb _).trans
      (congrArg (resultWithPorts p) (whenReady_busy hb (f s))).symm
  · exact ((whenReady_ready (s := s.withPorts p) hb _).trans (hf s p)).trans
      (congrArg (resultWithPorts p) (whenReady_ready hb (f s))).symm

/-- A branch on a condition that both states answer alike. -/
theorem resultWithPorts_ite (p : Ports) {c : Prop} [Decidable c] {r r' k k' : Result}
    (hr : r' = resultWithPorts p r) (hk : k' = resultWithPorts p k) :
    (if c then r' else k') = resultWithPorts p (if c then r else k) := by
  rw [apply_ite (resultWithPorts p), hr, hk]

/-- `SPD` reads the held mode and its range. -/
theorem execSpd_ignores_ports (dir : Bool) (speed : BitVec 8) : IgnoresPorts (execSpd dir speed) := by
  refine IgnoresPorts.whenReady fun s p => resultWithPorts_ite p rfl ?_
  have hmode : (s.withPorts p).mode = s.mode := rfl
  rw [hmode]
  cases stepModeOf s.mode with
  | none => rfl
  | some m => exact resultWithPorts_ite p rfl rfl

/-- No command reads the input ports: it is handed its operands decoded. -/
theorem command_ignores_ports {i : Instr} (hc : i.isCommand = true) : IgnoresPorts (exec i) := by
  cases i with
  | linit mode addr =>
    exact IgnoresPorts.whenReady fun s p =>
      resultWithPorts_ite p rfl (resultWithPorts_ite p rfl (resultWithPorts_ite p rfl rfl))
  | spd dir speed => exact execSpd_ignores_ports dir speed
  | fn idx on =>
    exact IgnoresPorts.whenReady fun s p => resultWithPorts_ite p rfl (resultWithPorts_ite p rfl rfl)
  | acc sub active addr =>
    exact IgnoresPorts.whenReady fun s p => resultWithPorts_ite p (resultWithPorts_ite p rfl rfl) rfl
  | rst => exact IgnoresPorts.whenReady fun s p => rfl
  | idle => exact IgnoresPorts.whenReady fun s p => rfl
  | estop => exact IgnoresPorts.whenReady fun s p => rfl
  | _ => simp [Instr.isCommand] at hc

/-! ## The parts of a step -/

/-- The `Emit` step looks at the position alone. -/
theorem emitStep_withPorts (s : State) (p : Ports) (n : Nat) (b : Bool) :
    (s.withPorts p).emitStep n b = (s.emitStep n b).withPorts p := by
  by_cases hlast : s.pos = s.params.preambleLen + 9 * n
  · rw [emitStep_last hlast, emitStep_last (s := s.withPorts p) hlast]
    rfl
  · rw [emitStep_inner hlast, emitStep_inner (s := s.withPorts p) hlast]
    rfl

/-- Of the input ports the sequencer reads the transport's choice only. -/
theorem sequenceFrame_withPorts {s : State} {p : Ports} (hb : s.busy = true)
    (htransport : transportChoice p = transportChoice s.ports) :
    sequenceFrame (s.withPorts p) = resultWithPorts p (sequenceFrame s) := by
  have hb' : (s.withPorts p).busy = true := hb
  have hbit : (s.withPorts p).offeredBit = s.offeredBit := rfl
  have hnb : (s.withPorts p).nb = s.nb := rfl
  have hports : transportChoice (s.withPorts p).ports = transportChoice s.ports := htransport
  rw [sequenceFrame, sequenceFrame, hbit, hnb]
  cases hc : transportChoice s.ports with
  | fault =>
    rw [offerBit_fault hb hc, offerBit_fault hb' (hports.trans hc)]
    rfl
  | stall =>
    rw [offerBit_stall hb hc, offerBit_stall hb' (hports.trans hc)]
    rfl
  | accept =>
    cases s.offeredBit with
    | none => simp [offerBit, hb, hb', hc, hports, resultWithPorts]
    | some b =>
      rw [offerBit_accept hb hc, offerBit_accept hb' (hports.trans hc), emitStep_withPorts]
      rfl

/-- Everything a step reads of the input ports: `rst`; on the idle block the command port, else the transport. -/
theorem stepSampled_withPorts {s : State} {p : Ports} (hrst : p.rst = s.ports.rst)
    (hcommand : s.busy = false → p.cmdValid = s.ports.cmdValid ∧ p.cmd = s.ports.cmd)
    (htransport : s.busy = true → transportChoice p = transportChoice s.ports) :
    stepSampled (s.withPorts p) = resultWithPorts p (stepSampled s) := by
  have hbusy : (s.withPorts p).busy = s.busy := rfl
  have hports : (s.withPorts p).ports = p := rfl
  unfold stepSampled
  rw [hports, hbusy, hrst]
  refine resultWithPorts_ite p rfl ?_
  cases hb : s.busy with
  | true => exact sequenceFrame_withPorts hb (htransport hb)
  | false =>
    obtain ⟨hvalid, hcmd⟩ := hcommand hb
    rw [hvalid, State.presented, State.presented, hports, hcmd, if_neg Bool.false_ne_true,
      if_neg Bool.false_ne_true]
    refine resultWithPorts_ite p ?_ rfl
    cases hd : decodeCommand s.ports.cmd with
    | error e => rfl
    | ok i => exact command_ignores_ports (decodeCommand_ok hd).1 s p

/-- A scripted step, with another sample in the place of the head of the script. -/
theorem step_with_other_sample {s t : State} {p q : Ports} {rest : List Ports} (hinputs : s.inputs = p :: rest)
    (hrst : q.rst = p.rst) (hcommand : s.busy = false → q.cmdValid = p.cmdValid ∧ q.cmd = p.cmd)
    (htransport : s.busy = true → transportChoice q = transportChoice p) (h : step s = .next t) :
    step { s with inputs := q :: rest } = .next { t with ports := q } := by
  have hp : s.sample.ports = p := nextPorts_of_inputs hinputs
  have hsample : State.sample { s with inputs := q :: rest } = s.sample.withPorts q := by
    simp [State.sample, State.withPorts, State.nextPorts, hinputs]
  rw [step, hsample, stepSampled_withPorts (by rw [hrst, hp]) (by rw [hp]; exact hcommand)
    (by rw [hp]; exact htransport)]
  exact congrArg (resultWithPorts q) h

/-! ## The obligations -/

/-- Settles O34: the fault aborts the frame in flight; the idle block does not read the transport's ports. -/
theorem transportFaultDropsTheFrame : Obligations.TransportFaultDropsTheFrame := by
  refine ⟨fun s hrst hb hfault => step_of_fault hrst hb hfault, fun s t p rest fault hb hinputs h => ?_⟩
  exact step_with_other_sample hinputs rfl (fun _ => ⟨rfl, rfl⟩) (by simp [hb]) h

/-- Settles O46: with a frame in flight the step does not read the command port. -/
theorem commandPortIsIgnoredWhileBusy : Obligations.CommandPortIsIgnoredWhileBusy := by
  intro s t p rest valid w hb hinputs h
  exact step_with_other_sample hinputs rfl (by simp [hb]) (fun _ => rfl) h

end Sys2Proof.Machine
end

section
/-! PROOFS. What a step answers (60_exceptions.md R120 to R129): the response of every step, which of the responses
refuse a command, and the causes of each. -/

namespace Sys2Proof.Machine

/-! ## The response port (R120, R121) -/

theorem rspValid_iff (s : State) : s.rspValid = true ↔ ∃ r, s.rsp = some r := Option.isSome_iff_exists

theorem rspCode_of_rsp {s : State} {r : Response} (h : s.rsp = some r) : s.rspCode = r.code := by
  rw [State.rspCode, h]

theorem code_eq_four_iff (r : Response) : r.code = 4#3 ↔ r = .stateNotAvailable := by
  cases r <;> decide

/-- Settles O52: the numbers by evaluation, the port by the response of the step. -/
theorem responseCodesAreNumberedAsInTheTable : Obligations.ResponseCodesAreNumberedAsInTheTable :=
  ⟨rfl, rfl, rfl, rfl, rfl, rfl, rfl, rfl, fun s r h => ⟨(rspValid_iff s).2 ⟨r, h⟩, rspCode_of_rsp h⟩⟩

/-! ## The response of a step -/

/-- The synchronous errors: the responses that refuse a command (R127). -/
def Response.Refuses (e : Response) : Prop :=
  e = .invalidAddress ∨ e = .invalidSpeed ∨ e = .functionNotAvailable ∨ e = .invalidSubState ∨ e = .illegalCommand

theorem not_refuses_ok : ¬Response.ok.Refuses := by simp [Response.Refuses]

theorem not_refuses_transportError : ¬Response.transportError.Refuses := by simp [Response.Refuses]

theorem not_refuses_stateNotAvailable : ¬Response.stateNotAvailable.Refuses := by simp [Response.Refuses]

/-- A command on the idle block is refused, answered with `OK`, or in flight and not answered yet. -/
theorem command_response {i : Instr} {s t : State} (hc : i.isCommand = true) (hb : s.busy = false)
    (h : exec i s = .next t) :
    (∃ e : Response, e.Refuses ∧ t = s.respond e) ∨ (t.busy = false ∧ t.rsp = some .ok) ∨
      (t.busy = true ∧ t.rsp = s.rsp) := by
  rcases command_next hc hb h with
    ⟨e, rfl, he⟩ | ⟨mode, addr, -, -, -, rfl⟩ | ⟨_, _, _, -, -, -, -, hspd⟩ | ⟨idx, on, -, -, -, hfn⟩ |
    ⟨_, _, _, -, -, -, hacc⟩ | ⟨-, rfl⟩ | ⟨-, rfl⟩ | ⟨-, rfl⟩
  · exact .inl ⟨e, he, rfl⟩
  · exact .inr (.inl ⟨hb, respond_rsp _ _⟩)
  · exact .inr (.inr (by rw [sendPacket_next hspd]; exact ⟨startFrame_busy _ _, startFrame_rsp _ _⟩))
  · exact .inr (.inr (by rw [sendPacket_next hfn]; exact ⟨startFrame_busy _ _, startFrame_rsp _ _⟩))
  · exact .inr (.inr (by rw [sendPacket_next hacc]; exact ⟨startFrame_busy _ _, startFrame_rsp _ _⟩))
  all_goals exact .inr (.inr ⟨startFrame_busy _ _, startFrame_rsp _ _⟩)

/-- The command of a frame in flight is answered when the frame ends, with `OK` or `TransportError`. -/
theorem sequenceFrame_response {s t : State} (hb : s.busy = true) (h : sequenceFrame s = .next t) :
    (t.busy = false ∧ (t.rsp = some .ok ∨ t.rsp = some .transportError)) ∨ (t.busy = true ∧ t.rsp = s.rsp) := by
  rcases sequenceFrame_next h hb with
    ⟨-, rfl⟩ | ⟨-, rfl⟩ | ⟨-, b, -, -, rfl⟩ | ⟨-, b, -, -, rfl⟩
  · exact .inl ⟨abort_busy s, .inr (abort_rsp s)⟩
  · exact .inr ⟨hb, rfl⟩
  · exact .inl ⟨finish_busy _, .inl (finish_rsp _)⟩
  · exact .inr ⟨hb, rfl⟩

/-- What a step from `s` to `t` answers (R121). A command is at hand when it is in flight or presented to the idle
block. -/
inductive StepAnswer (s t : State) : Prop
  /-- `rst = 1`: no command is accepted and none is answered. -/
  | reset (hrst : s.nextPorts.rst = true) (hrsp : t.rsp = none)
  /-- No command is at hand. -/
  | waiting (hb : s.busy = false) (hvalid : s.nextPorts.cmdValid = false) (ht : t = s.sample)
  /-- The command presented is refused. -/
  | refused (e : Response) (he : e.Refuses) (hb : s.busy = false) (hvalid : s.nextPorts.cmdValid = true)
      (ht : t = s.sample.respond e)
  /-- The command at hand is done. -/
  | ended (hcommand : s.busy = true ∨ s.nextPorts.cmdValid = true) (hb : t.busy = false)
      (hrsp : t.rsp = some .ok ∨ t.rsp = some .transportError)
  /-- The command at hand is in flight. -/
  | pending (hcommand : s.busy = true ∨ s.nextPorts.cmdValid = true) (hb : t.busy = true) (hrsp : t.rsp = none)

theorem step_answer {s t : State} (h : step s = .next t) : StepAnswer s t := by
  rcases step_next h with
    ⟨hrst, rfl⟩ | ⟨-, hb, hseq⟩ | ⟨-, hb, hvalid, i, hdec, hexec⟩ | ⟨-, hb, hvalid, -, rfl⟩ | ⟨-, hb, hvalid, ht⟩
  · exact .reset hrst (applyReset_rsp _)
  · rcases sequenceFrame_response (s := s.sample) hb hseq with ⟨htb, hrsp⟩ | ⟨htb, hrsp⟩
    · exact .ended (.inl hb) htb hrsp
    · exact .pending (.inl hb) htb hrsp
  · obtain ⟨hcommand, -⟩ := decodeCommand_ok hdec
    rcases command_response (s := s.sample) hcommand hb hexec with ⟨e, he, ht⟩ | ⟨htb, hrsp⟩ | ⟨htb, hrsp⟩
    · exact .refused e he hb hvalid ht
    · exact .ended (.inr hvalid) htb (.inl hrsp)
    · exact .pending (.inr hvalid) htb hrsp
  · exact .refused .illegalCommand (by simp [Response.Refuses]) hb hvalid rfl
  · exact .waiting hb hvalid ht

/-- A step that answers a synchronous error was presented a command and refused it. -/
theorem step_refuses {s t : State} {e : Response} (h : step s = .next t) (hrsp : t.rsp = some e) (he : e.Refuses) :
    s.busy = false ∧ t = s.sample.respond e := by
  cases step_answer h with
  | reset _ hnone => simp [hnone] at hrsp
  | waiting _ _ ht => simp [ht] at hrsp
  | refused e' _ hb _ ht =>
    rw [ht, respond_rsp] at hrsp
    exact ⟨hb, Option.some.inj hrsp ▸ ht⟩
  | ended _ _ hend =>
    rcases hend with hok | herror
    · exact absurd (Option.some.inj (hok.symm.trans hrsp) ▸ he) not_refuses_ok
    · exact absurd (Option.some.inj (herror.symm.trans hrsp) ▸ he) not_refuses_transportError
  | pending _ _ hnone => simp [hnone] at hrsp

theorem step_rsp_ne_stateNotAvailable {s t : State} (h : step s = .next t) : t.rsp ≠ some .stateNotAvailable := by
  intro hrsp
  cases step_answer h with
  | reset _ hnone => simp [hnone] at hrsp
  | waiting _ _ ht => simp [ht] at hrsp
  | refused e he _ _ ht =>
    rw [ht, respond_rsp] at hrsp
    exact not_refuses_stateNotAvailable (Option.some.inj hrsp ▸ he)
  | ended _ _ hend => rcases hend with hend | hend <;> simp [hend] at hrsp
  | pending _ _ hnone => simp [hnone] at hrsp

/-! ## The obligations about every step -/

/-- Settles O42: the refusal responds on the sampled state, which is idle. -/
theorem refusedCommandChangesNothing : Obligations.RefusedCommandChangesNothing := by
  intro s t e h hrsp he
  obtain ⟨hb, rfl⟩ := step_refuses h hrsp he
  exact ⟨rfl, hb, by simp [State.cmdReady, hb]⟩

/-- Settles O44: code 4 is the number of `StateNotAvailable`, which no step answers. -/
theorem responseCodeFourIsNeverDriven : Obligations.ResponseCodeFourIsNeverDriven := by
  intro s t h hvalid hcode
  obtain ⟨r, hr⟩ := (rspValid_iff t).1 hvalid
  rw [rspCode_of_rsp hr, code_eq_four_iff] at hcode
  exact step_rsp_ne_stateNotAvailable h (hcode ▸ hr)

/-- One command is at hand when one is in flight or one is presented to the idle block. -/
theorem commands_at_hand {s : State} (h : s.busy = true ∨ s.nextPorts.cmdValid = true) :
    (s.cmdReady && s.nextPorts.cmdValid).toNat + s.busy.toNat = 1 := by
  cases hb : s.busy with
  | true => simp [State.cmdReady, hb]
  | false =>
    have hvalid : s.nextPorts.cmdValid = true := by simpa [hb] using h
    simp [State.cmdReady, hb, hvalid]

/-- Settles O45, by the cases of what a step answers. -/
theorem everyAcceptedCommandIsAnsweredOnce : Obligations.EveryAcceptedCommandIsAnsweredOnce := by
  intro s t hrst h
  cases step_answer h with
  | reset hrst' => simp [hrst] at hrst'
  | waiting hb hvalid ht => simp [ht, hb, hvalid, State.rspValid]
  | refused e _ hb hvalid ht => rw [commands_at_hand (.inr hvalid)]; simp [ht, hb, State.rspValid]
  | ended hcommand hb hrsp =>
    rw [commands_at_hand hcommand]
    rcases hrsp with hrsp | hrsp <;> simp [hb, hrsp, State.rspValid]
  | pending hcommand hb hrsp => rw [commands_at_hand hcommand]; simp [hb, hrsp, State.rspValid]

/-! ## The causes of the refusals, command by command (R122 to R124, R126) -/

theorem validLoco_iff_toNat (addr : BitVec 16) :
    validLoco addr = true ↔ ¬(addr.toNat = 0 ∨ 128 ≤ addr.toNat) := by
  simp only [validLoco, Bool.and_eq_true, decide_eq_true_eq]
  omega

/-- The order of words is that of the numbers they hold. -/
theorem validAcc_iff_toNat (addr : BitVec 16) : validAcc addr = true ↔ 1 ≤ addr.toNat ∧ addr.toNat ≤ 511 :=
  validAcc_iff addr

theorem validSub_iff_toNat (sub : BitVec 4) : validSub sub = true ↔ sub.toNat ≤ 7 := validSub_iff sub

/-- The speeds that a held mode refuses: the modes other than `MODE128` share one range (R123, 41_speed.md R75). -/
def SpeedOutOfRange (mode : BitVec 2) (speed : Int) : Prop :=
  (mode = 2#2 ∧ (speed < -1 ∨ 126 < speed)) ∨ (mode ≠ 2#2 ∧ (speed < -3 ∨ 28 < speed))

theorem validSpeed_iff {mode : BitVec 2} {m : StepMode} (hm : stepModeOf mode = some m) (speed : Int) :
    validSpeed m speed = true ↔ ¬SpeedOutOfRange mode speed := by
  obtain ⟨h128, -⟩ := stepModeOf_some hm
  cases m with
  | mode128 => simp [validSpeed, SpeedOutOfRange, h128.1 rfl]
  | mode28 => simp [validSpeed, SpeedOutOfRange, mt h128.2]
  | mode14 => simp [validSpeed, SpeedOutOfRange, mt h128.2]

section
variable {s t : State} (hb : s.busy = false)
include hb

theorem linit_response {mode : BitVec 2} {addr : BitVec 16} (hmode : mode ≠ 3#2)
    (h : exec (.linit mode addr) s = .next t) :
    ((addr.toNat = 0 ∨ 128 ≤ addr.toNat) ∧ t.rsp = some .invalidAddress) ∨
    (¬(addr.toNat = 0 ∨ 128 ≤ addr.toNat) ∧ t.rsp = some .ok) := by
  rw [exec_linit_of_legal_mode hb hmode (mode14_accepted_of_next hb h)] at h
  by_cases haddr : validLoco addr = true
  · cases (if_pos haddr).symm.trans h
    exact .inr ⟨(validLoco_iff_toNat addr).1 haddr, rfl⟩
  · cases (if_neg haddr).symm.trans h
    exact .inl ⟨not_not.1 (mt (validLoco_iff_toNat addr).2 haddr), rfl⟩

theorem spd_response {dir : Bool} {speed : BitVec 8} (h : exec (.spd dir speed) s = .next t) :
    (s.laddr = 0#7 ∧ t.rsp = some .invalidAddress) ∨
    (s.laddr ≠ 0#7 ∧ SpeedOutOfRange s.mode speed.toInt ∧ t.rsp = some .invalidSpeed) ∨
    (s.laddr ≠ 0#7 ∧ ¬SpeedOutOfRange s.mode speed.toInt ∧ t.rsp = s.rsp) := by
  by_cases hloco : s.laddr = 0#7
  · cases (exec_spd_of_no_loco hb hloco dir speed).symm.trans h
    exact .inl ⟨hloco, rfl⟩
  · cases hm : stepModeOf s.mode with
    | none => simp [exec, execSpd, whenReady_ready hb, hloco, hm] at h
    | some m =>
      by_cases hspeed : validSpeed m speed.toInt = true
      · cases ((exec_spd_of_loco hb hloco hm dir speed).trans (if_pos hspeed)).symm.trans h
        exact .inr (.inr ⟨hloco, (validSpeed_iff hm _).1 hspeed, rfl⟩)
      · cases (exec_spd_of_speed_out_of_range hb hloco hm hspeed dir).symm.trans h
        exact .inr (.inl ⟨hloco, not_not.1 (mt (validSpeed_iff hm _).2 hspeed), rfl⟩)

theorem fn_response {idx : BitVec 4} {on : Bool} (h : exec (.fn idx on) s = .next t) :
    (s.laddr = 0#7 ∧ t.rsp = some .invalidAddress) ∨
    (s.laddr ≠ 0#7 ∧ 13 ≤ idx.toNat ∧ t.rsp = some .functionNotAvailable) ∨
    (s.laddr ≠ 0#7 ∧ ¬13 ≤ idx.toNat ∧ t.rsp = s.rsp) := by
  by_cases hloco : s.laddr = 0#7
  · cases (exec_fn_of_no_loco hb hloco idx on).symm.trans h
    exact .inl ⟨hloco, rfl⟩
  · by_cases hidx : 13 ≤ idx.toNat
    · cases (exec_fn_of_index_out_of_range hb hloco hidx on).symm.trans h
      exact .inr (.inl ⟨hloco, hidx, rfl⟩)
    · cases (exec_fn_of_index_in_range hb hloco (by omega) on).symm.trans h
      exact .inr (.inr ⟨hloco, hidx, rfl⟩)

theorem acc_response {sub : BitVec 4} {active : Bool} {addr : BitVec 16}
    (h : exec (.acc sub active addr) s = .next t) :
    (¬(1 ≤ addr.toNat ∧ addr.toNat ≤ 511) ∧ t.rsp = some .invalidAddress) ∨
    ((1 ≤ addr.toNat ∧ addr.toNat ≤ 511) ∧ ¬sub.toNat ≤ 7 ∧ t.rsp = some .invalidSubState) ∨
    ((1 ≤ addr.toNat ∧ addr.toNat ≤ 511) ∧ sub.toNat ≤ 7 ∧ t.rsp = s.rsp) := by
  rw [← validAcc_iff_toNat, ← validSub_iff_toNat]
  by_cases haddr : validAcc addr = true
  · by_cases hsub : validSub sub = true
    · cases (exec_acc_in_range hb haddr hsub active).symm.trans h
      exact .inr (.inr ⟨haddr, hsub, rfl⟩)
    · cases (exec_acc_of_sub_out_of_range hb haddr hsub active).symm.trans h
      exact .inr (.inl ⟨haddr, hsub, rfl⟩)
  · cases (exec_acc_of_address_out_of_range hb haddr sub active).symm.trans h
    exact .inl ⟨haddr, rfl⟩

theorem broadcast_response {i : Instr} (hi : i = .rst ∨ i = .idle ∨ i = .estop) (h : exec i s = .next t) :
    t.rsp = s.rsp := by
  rcases hi with rfl | rfl | rfl
  all_goals
    cases (whenReady_ready hb _).symm.trans h
    rfl

end

/-- Settles O43, by the word and then by the answers of its command. -/
theorem errorsAreAnsweredExactlyUnderTheirCauses : Obligations.ErrorsAreAnsweredExactlyUnderTheirCauses := by
  intro s t hrst hb hvalid h d
  cases hd : decodeCommand s.nextPorts.cmd with
  | error e =>
    cases (step_of_illegal hrst hb hvalid hd).symm.trans h
    simp [d, hd]
  | ok i =>
    rw [step_of_command hrst hb hvalid hd] at h
    obtain ⟨hcommand, hwf⟩ := decodeCommand_ok hd
    have hb' : s.sample.busy = false := hb
    cases i with
    | linit mode addr =>
      have hmode : mode ≠ 3#2 := by simpa [Instr.wellFormed] using hwf
      rcases linit_response hb' hmode h with ⟨haddr, hrsp⟩ | ⟨haddr, hrsp⟩
      · simp [d, hd, hrsp, haddr]
      · simp [d, hd, hrsp]; omega
    | spd dir speed =>
      -- R123 in the words of the obligation: both name the range of the held mode.
      change _ ∧ _ ∧ (_ ↔ ∃ dir, ∃ speed : BitVec 8, _ ∧ _ ∧ SpeedOutOfRange s.mode speed.toInt) ∧ _ ∧ _
      have hcases := spd_response hb' h
      simp only [sample_laddr, sample_mode, sample_rsp] at hcases
      rcases hcases with ⟨hloco, hrsp⟩ | ⟨hloco, hspeed, hrsp⟩ | ⟨hloco, hspeed, hrsp⟩
      · simp [d, hd, hrsp, hloco]
      · simp [d, hd, hrsp, hloco, hspeed]
      · simp [d, hd, hrsp, hloco, hspeed]
    | fn idx on =>
      have hcases := fn_response hb' h
      simp only [sample_laddr, sample_rsp] at hcases
      rcases hcases with ⟨hloco, hrsp⟩ | ⟨hloco, hidx, hrsp⟩ | ⟨hloco, hidx, hrsp⟩
      · simp [d, hd, hrsp, hloco]
      · simp [d, hd, hrsp, hloco, hidx]
      · simp [d, hd, hrsp, hidx, hloco]
    | acc sub active addr =>
      rcases acc_response hb' h with ⟨haddr, hrsp⟩ | ⟨haddr, hsub, hrsp⟩ | ⟨haddr, hsub, hrsp⟩
      · simp [d, hd, hrsp]; omega
      · simp [d, hd, hrsp]; omega
      · simp [d, hd, hrsp]; omega
    | rst => simp [d, hd, broadcast_response hb' (.inl rfl) h]
    | idle => simp [d, hd, broadcast_response hb' (.inr (.inl rfl)) h]
    | estop => simp [d, hd, broadcast_response hb' (.inr (.inr rfl)) h]
    | _ => simp [Instr.isCommand] at hcommand

end Sys2Proof.Machine
end

section
/-! PROOFS. Who writes `LADDR` and `MODE` (10_state.md R11, R12, 70_reset_and_hazards.md R148). -/

namespace Sys2Proof.Machine

/-- A command keeps the address and the mode, or it is a `LINIT` that constructs the context. -/
theorem command_keeps_address_or_constructs {i : Instr} {s t : State} (hc : i.isCommand = true)
    (hb : s.busy = false) (h : exec i s = .next t) :
    (t.laddr = s.laddr ∧ t.mode = s.mode) ∨
      ∃ mode addr, i = .linit mode addr ∧ t = (s.construct mode addr).respond .ok := by
  rcases command_next hc hb h with
    ⟨e, rfl, -⟩ | ⟨mode, addr, hi, -, -, ht⟩ | ⟨_, _, _, -, -, -, -, hspd⟩ | ⟨idx, on, -, -, -, hfn⟩ |
    ⟨_, _, _, -, -, -, hacc⟩ | ⟨-, rfl⟩ | ⟨-, rfl⟩ | ⟨-, rfl⟩
  · exact .inl ⟨respond_laddr s e, respond_mode s e⟩
  · exact .inr ⟨mode, addr, hi, ht⟩
  · exact .inl (by rw [sendPacket_next hspd]; exact ⟨startFrame_laddr _ _, startFrame_mode _ _⟩)
  · exact .inl (by rw [sendPacket_next hfn]; exact ⟨startFrame_laddr _ _, startFrame_mode _ _⟩)
  · exact .inl (by rw [sendPacket_next hacc]; exact ⟨startFrame_laddr _ _, startFrame_mode _ _⟩)
  all_goals exact .inl ⟨startFrame_laddr s _, startFrame_mode s _⟩

/-- The sequencer writes neither: not on an abort, a stall, the last bit or an inner one. -/
theorem sequenceFrame_keeps_address {s t : State} (hb : s.busy = true) (h : sequenceFrame s = .next t) :
    t.laddr = s.laddr ∧ t.mode = s.mode := by
  rcases sequenceFrame_next h hb with
    ⟨-, rfl⟩ | ⟨-, rfl⟩ | ⟨-, b, -, -, rfl⟩ | ⟨-, b, -, -, rfl⟩
  · exact ⟨abort_laddr s, abort_mode s⟩
  · exact ⟨rfl, rfl⟩
  · exact ⟨finish_laddr _, finish_mode _⟩
  · exact ⟨advance_laddr _, advance_mode _⟩

/-- A step with reset low keeps the address and the mode, or it runs a `LINIT` that constructs the context. -/
theorem step_keeps_address_or_constructs {s t : State} (hrst : s.nextPorts.rst = false) (h : step s = .next t) :
    (t.laddr = s.laddr ∧ t.mode = s.mode) ∨
      ∃ mode addr, decodeCommand s.nextPorts.cmd = .ok (.linit mode addr) ∧ s.busy = false ∧
        s.nextPorts.cmdValid = true ∧ t = (s.sample.construct mode addr).respond .ok := by
  rcases step_next h with
    ⟨hrst', -⟩ | ⟨-, hb, hseq⟩ | ⟨-, hb, hvalid, i, hdec, hexec⟩ | ⟨-, -, -, -, rfl⟩ | ⟨-, -, -, rfl⟩
  · simp [hrst] at hrst'
  · exact .inl (sequenceFrame_keeps_address (s := s.sample) hb hseq)
  · obtain ⟨hcommand, -⟩ := decodeCommand_ok hdec
    rcases command_keeps_address_or_constructs (s := s.sample) hcommand hb hexec with
      hkeep | ⟨mode, addr, rfl, ht⟩
    · exact .inl hkeep
    · exact .inr ⟨mode, addr, hdec, hb, hvalid, ht⟩
  · exact .inl ⟨respond_laddr _ _, respond_mode _ _⟩
  · exact .inl ⟨sample_laddr s, sample_mode s⟩

/-- Settles O48: with reset low, a step that does not keep both is a `LINIT` that constructs the context. -/
theorem onlyLinitAndResetWriteAddressAndMode : Obligations.OnlyLinitAndResetWriteAddressAndMode := by
  intro s t h hchanged
  cases hrst : s.nextPorts.rst with
  | true => exact .inl rfl
  | false =>
    rcases step_keeps_address_or_constructs hrst h with ⟨hladdr, hmode⟩ | ⟨mode, addr, hdec, hb, hvalid, rfl⟩
    · exact (hchanged.elim (· hladdr) (· hmode)).elim
    · refine .inr ⟨mode, addr, hdec, hb, hvalid, ?_, rfl, rfl, rfl, hb, rfl⟩
      rw [respond_laddr, construct_laddr, BitVec.setWidth_eq_extractLsb' (by decide)]

end Sys2Proof.Machine
end
